-- ==== Sys2Proof/Word.lean ====
section
/-! DEFINITION. The two word sizes of the DCA core (spec/00_scope.md R2): a Byte and a HalfWord, and the
40-bit instruction word of spec/30_encoding.md R51. -/

namespace Sys2Proof

/-- "A Byte is exactly 8 bits" (R2). -/
abbrev Byte := BitVec 8

/-- A register's contents, an operand, an address held in a register: 16 bits (R2, R10). -/
abbrev HalfWord := BitVec 16

/-- The word `I` of one instruction: five bytes, the first in bits 39:32 (R51). -/
abbrev InstrWord := BitVec 40

/-- A token of the textual program image (R6, R158): its characters, leftmost first. -/
abbrev Token := List Char

end Sys2Proof
end

