-- ==== Sys2Proof/Machine/Codec.lean ====
section
/-! DEFINITION. The codec of spec/00_scope.md section 6 (R2 to R6): integers, bytes and half-words, big-endian
assembly of byte sequences, and the textual tokens of the program image. -/

namespace Sys2Proof

/-- `decToByte(n) = n mod 256` (R3). -/
def decToByte (n : Nat) : Byte := BitVec.ofNat 8 n

/-- `byteToDec` (R3). -/
abbrev byteToDec (b : Byte) : Nat := b.toNat

/-- `decToHalfWord(n) = n mod 65536` (R4). -/
def decToHalfWord (n : Nat) : HalfWord := BitVec.ofNat 16 n

/-- `halfWordToDec` (R4). -/
abbrev halfWordToDec (v : HalfWord) : Nat := v.toNat

/-- `hw(h, l) = h * 256 + l`: "the two bytes concatenate high-then-low" (R2). -/
def hw (h l : Byte) : HalfWord := h ++ l

/-- `hi(v) = v[15:8]` (R2). -/
def hi (v : HalfWord) : Byte := v.extractLsb' 8 8

/-- `lo(v) = v[7:0]` (R2). -/
def lo (v : HalfWord) : Byte := v.extractLsb' 0 8

/-- `zext_16(b)`: low byte `b`, high byte 0 (00_scope.md section 5). -/
def zext16 (b : Byte) : HalfWord := hw 0 b

/-- The assembly loop of `MemRead` (R33): the first byte is the most significant. -/
def bytesToNat (bs : List Byte) : Nat := bs.foldl (fun v b => v * 256 + byteToDec b) 0

/-- The `n` bytes of `v`, most significant first, as `MemWrite` lays them out (R34). -/
def natToBytes : Nat → Nat → List Byte
  | 0, _ => []
  | n + 1, v => decToByte (v / 256 ^ n) :: natToBytes n v

/-- One character of a token is `0` or `1` (R6). -/
def isBit (c : Char) : Bool := c == '0' || c == '1'

/-- A token is a well-formed Byte "iff its length is 8 and every character is `0` or `1`" (R6). -/
def wellFormedByte (t : Token) : Bool := t.length == 8 && t.all isBit

/-- The Byte a well-formed token stands for, its leftmost character being bit 7 (R158). -/
def tokenValue (t : Token) : Byte :=
  decToByte (t.foldl (fun v c => v * 2 + (if c = '1' then 1 else 0)) 0)

/-- The token that spells a byte (bit 7 first): the inverse of `tokenValue`. -/
def tokenOfByte (b : Byte) : Token :=
  [7, 6, 5, 4, 3, 2, 1, 0].map fun i => if b.getLsbD i then '1' else '0'

/-- The loop behind `tokensOfText`: `cur` is the token being read, its characters in reverse. -/
def splitTokens : List Char → Token → List Token
  | [], cur => if cur.isEmpty then [] else [cur.reverse]
  | c :: cs, cur =>
    if c.isWhitespace then
      if cur.isEmpty then splitTokens cs [] else cur.reverse :: splitTokens cs []
    else splitTokens cs (c :: cur)

/-- "A sequence of whitespace-separated tokens" (R158). Which characters are white space is a
DESIGN CHOICE (log entry 12). -/
def tokensOfText (text : List Char) : List Token := splitTokens text []

end Sys2Proof
end

