-- ==== Sys2Proof/Syntax.lean ====
section
/-! DEFINITION. The nine instructions of spec/opcode_table.json, one constructor a row. Both operands are kept as
the raw half-words of the encoding: an operand is not examined at decode time (R55), so a bad register code is
still an instruction and faults when it executes (R57). -/

namespace Sys2Proof

/-- The nine instruction kinds (R54) with operand1 and operand2 (R53). -/
inductive Instr where
  /-- R90: operand1 the register holding the address, operand2 the destination register. -/
  | load (op1 op2 : HalfWord)
  /-- R91: operand1 the register holding the value, operand2 the register holding the address. -/
  | store (op1 op2 : HalfWord)
  /-- R85: operand1 the destination register, operand2 the literal. -/
  | set (op1 op2 : HalfWord)
  /-- R92: operand1 the register holding the address, operand2 the destination register. -/
  | loadh (op1 op2 : HalfWord)
  /-- R93: operand1 the register holding the value, operand2 the register holding the address. -/
  | storeh (op1 op2 : HalfWord)
  /-- R100: operand1 the destination and first addend, operand2 the second addend. -/
  | add (op1 op2 : HalfWord)
  /-- R101: operand1 the destination and minuend, operand2 the subtrahend. -/
  | sub (op1 op2 : HalfWord)
  /-- R105: operand1 the register holding the target, operand2 the register tested against zero. -/
  | cjump (op1 op2 : HalfWord)
  /-- R86: operand1 the source register, operand2 the destination register. -/
  | mov (op1 op2 : HalfWord)
deriving DecidableEq, Repr

end Sys2Proof
end

