-- ==== Sys2Proof/Decode.lean ====
section
/-! DEFINITION. The opcode map (R54), the decoder (R51, R52, R55), the encoder written from the same map and layout,
and the host's numbering of a table row's word. -/

namespace Sys2Proof

/-- The nine instruction kinds (R54), in the spec's listing order. -/
inductive Kind where
  | load | store | set | loadh | storeh | add | sub | cjump | mov
deriving DecidableEq, Repr

/-- The opcode table `OPC` (R54): 0x03 of `SET` is sourced, the other eight are decision D1. -/
def opcodeByte : Kind → Byte
  | .load => 0x01
  | .store => 0x02
  | .set => 0x03
  | .loadh => 0x04
  | .storeh => 0x05
  | .add => 0x06
  | .sub => 0x07
  | .cjump => 0x08
  | .mov => 0x09

/-- All nine kinds: the list is closed (R54, R102). -/
def allKinds : List Kind := [.load, .store, .set, .loadh, .storeh, .add, .sub, .cjump, .mov]

/-- `DecodeOpcode(b)` (R55): `none` is the spec's 'invalid opcode'. -/
def decodeOpcode (b : Byte) : Option Kind := allKinds.find? fun k => opcodeByte k == b

/-- The instruction of a kind with its two operands; every kind has the one format `F5` (R50, R51). -/
def Kind.instr : Kind → HalfWord → HalfWord → Instr
  | .load => .load
  | .store => .store
  | .set => .set
  | .loadh => .loadh
  | .storeh => .storeh
  | .add => .add
  | .sub => .sub
  | .cjump => .cjump
  | .mov => .mov

/-- The kind of an instruction. -/
def Instr.kind : Instr → Kind
  | .load _ _ => .load
  | .store _ _ => .store
  | .set _ _ => .set
  | .loadh _ _ => .loadh
  | .storeh _ _ => .storeh
  | .add _ _ => .add
  | .sub _ _ => .sub
  | .cjump _ _ => .cjump
  | .mov _ _ => .mov

/-- operand1 of an instruction (R51). -/
def Instr.op1 : Instr → HalfWord
  | .load a _ | .store a _ | .set a _ | .loadh a _ | .storeh a _
  | .add a _ | .sub a _ | .cjump a _ | .mov a _ => a

/-- operand2 of an instruction (R51). -/
def Instr.op2 : Instr → HalfWord
  | .load _ b | .store _ b | .set _ b | .loadh _ b | .storeh _ b
  | .add _ b | .sub _ b | .cjump _ b | .mov _ b => b

/-- The 40-bit word `OO AAAA BBBB`: the opcode byte most significant, then operand1, then operand2 (R51). -/
def mkWord (o : Byte) (a b : HalfWord) : InstrWord := o ++ (a ++ b)

/-- `I[39:32]` (R52). -/
def wordOpcode (I : InstrWord) : Byte := I.extractLsb' 32 8

/-- `operand1 = I[31:16]` (R52). -/
def wordOp1 (I : InstrWord) : HalfWord := I.extractLsb' 16 16

/-- `operand2 = I[15:0]` (R52). -/
def wordOp2 (I : InstrWord) : HalfWord := I.extractLsb' 0 16

/-- Why bytes are not an instruction. -/
inductive DecodeReject where
  /-- The opcode byte is not in the table (R55, R56). -/
  | invalidOpcode (b : Byte)
  /-- Not exactly five bytes: every instruction has five (R50). -/
  | wrongLength (n : Nat)
deriving DecidableEq, Repr

/-- Decoding of the fetched word: the opcode byte alone decides, operands are not examined (R55).
The error is the offending opcode byte. -/
def decodeWord (I : InstrWord) : Except Byte Instr :=
  match decodeOpcode (wordOpcode I) with
  | some k => .ok (k.instr (wordOp1 I) (wordOp2 I))
  | none => .error (wordOpcode I)

/-- Decoding of a byte sequence, total on every list: five bytes, the first most significant (R51). -/
def decode (bs : List Byte) : Except DecodeReject Instr :=
  if bs.length = 5 then
    match decodeWord (BitVec.ofNat 40 (bytesToNat bs)) with
    | .ok i => .ok i
    | .error b => .error (.invalidOpcode b)
  else .error (.wrongLength bs.length)

/-- The five bytes of an instruction in ascending address order, from the layout table of R51. -/
def encode (i : Instr) : List Byte :=
  [opcodeByte i.kind, hi i.op1, lo i.op1, hi i.op2, lo i.op2]

/-- The 40-bit word of an instruction (R51). -/
def encodeWord (i : Instr) : InstrWord := mkWord (opcodeByte i.kind) i.op1 i.op2

/-- The host's word of a table row as the 40-bit word `I`. The table numbers the row as ONE 40-bit number whose most
significant byte is the opcode byte (its "match" of LOAD is 0x0100000000; R51), stored big-endian; a shorter
word holds the first bytes, and the bytes after it are zero. DEDUCED, log entry 11. -/
def tableWord (nbits w : Nat) : InstrWord := BitVec.ofNat 40 (w * 2 ^ (40 - nbits))

/-- The instruction this decoder reads from a table row's word. -/
def decodeTableWord (nbits w : Nat) : Option Instr :=
  match decode (natToBytes 5 (tableWord nbits w).toNat) with
  | .ok i => some i
  | .error _ => none

end Sys2Proof
end

