-- ==== Sys2Proof/Config.lean ====
section
/-! DEFINITION. The names of the twelve registers and of the device commands, and the configuration record that
spec/00_scope.md section 4 asks a model to take as an argument. Its values after reset are in
Machine/Defaults.lean, its well-formedness in Machine/Codes.lean. -/

namespace Sys2Proof

/-- The twelve registers (R10); the order is that of the code table of R11. -/
inductive RegName where
  | r00 | r01 | r02 | r03 | r04 | r05 | r06 | r07 | r08 | r09
  | rpc
  | rsp
deriving DecidableEq, Repr

/-- What a byte at the device bus address means to the adapter (R112). -/
inductive DeviceOp where
  | idle
  | buffer
  | draw
  | clear
  | unknown
deriving DecidableEq, Repr

/-- The configuration record: the parameters the spec leaves OPEN (92_eei_decisions.md D3, D4, D5) and
`GPR_RESET` (D6). It is constant during a run and no instruction reads or writes it.
`CHANNEL_ROUND` (D13) has no field: the commands carry the exact rational (R115; log entry 9). -/
structure Config where
  /-- `CODE_RPC` (D3). -/
  codeRpc : HalfWord
  /-- `CODE_RSP` (D3). -/
  codeRsp : HalfWord
  /-- `DEVICE_BUS_ADDR` (D4). -/
  deviceBusAddr : HalfWord
  /-- The one byte that `DEVOP` maps to `BUFFER` (D5). -/
  bufferByte : Byte
  /-- The one byte that `DEVOP` maps to `DRAW` (D5). -/
  drawByte : Byte
  /-- The one byte that `DEVOP` maps to `CLEAR` (D5). -/
  clearByte : Byte
  /-- The bytes that `DEVOP` maps to `Idle` (D5, 90_conflicts.md C4); none of them in the cautious model of C4. -/
  idleBytes : List Byte
  /-- `GPR_RESET` (D6): what `R00` .. `R09` hold after reset. -/
  gprReset : HalfWord
deriving DecidableEq, Repr

end Sys2Proof
end

