-- ==== Sys2Proof/Machine/Codes.lean ====
section
/-! DEFINITION. The register code table (R11) and its inverse `Resolve` (R12), the device opcode table `DEVOP`
(R112), and the well-formedness of a configuration record (00_scope.md section 4). -/

namespace Sys2Proof

/-- The code table `CODE` (R11): 0x0001 for `R00` is sourced, the codes of `R01` .. `R09` are decision D2, those of
`RPC` and `RSP` are the OPEN parameters D3. -/
def Config.code (cfg : Config) : RegName → HalfWord
  | .r00 => 0x0001
  | .r01 => 0x0002
  | .r02 => 0x0003
  | .r03 => 0x0004
  | .r04 => 0x0005
  | .r05 => 0x0006
  | .r06 => 0x0007
  | .r07 => 0x0008
  | .r08 => 0x0009
  | .r09 => 0x000A
  | .rpc => cfg.codeRpc
  | .rsp => cfg.codeRsp

/-- All twelve register names (R10). -/
def allRegs : List RegName :=
  [.r00, .r01, .r02, .r03, .r04, .r05, .r06, .r07, .r08, .r09, .rpc, .rsp]

/-- `Resolve(c)` (R12): the register whose code is `c`; `none` where no register has that code. -/
def Config.resolve (cfg : Config) (c : HalfWord) : Option RegName :=
  allRegs.find? fun r => cfg.code r == c

/-- `RPC` and `RSP`, the read-only registers (R15). -/
def readOnly (r : RegName) : Bool := r == .rpc || r == .rsp

/-- `DEVOP` (R112): three command bytes, the idle bytes, and `Unknown` for every other byte. -/
def Config.devop (cfg : Config) (d : Byte) : DeviceOp :=
  if d = cfg.bufferByte then .buffer
  else if d = cfg.drawByte then .draw
  else if d = cfg.clearByte then .clear
  else if d ∈ cfg.idleBytes then .idle
  else .unknown

/-- The two open register codes are new: "any two HalfWords distinct from each other and from 0x0001..0x000A" (D3).
With the fixed ten this makes the twelve codes pairwise distinct (R11). -/
abbrev Config.codesWf (cfg : Config) : Prop := (allRegs.map cfg.code).Nodup

/-- The device opcode bytes are pairwise distinct (00_scope.md section 4, D5). -/
abbrev Config.devopWf (cfg : Config) : Prop :=
  (cfg.bufferByte :: cfg.drawByte :: cfg.clearByte :: cfg.idleBytes).Nodup

/-- The payload cells lie inside memory: `DEVICE_BUS_ADDR + 6 <= 65535` (R111, D4). -/
abbrev Config.busWf (cfg : Config) : Prop := cfg.deviceBusAddr.toNat + 6 ≤ 65535

/-- A well-formed configuration record (00_scope.md section 4, R111). -/
abbrev Config.wf (cfg : Config) : Prop := cfg.codesWf ∧ cfg.devopWf ∧ cfg.busWf

end Sys2Proof
end

