-- ==== Sys2Proof/Machine/Defaults.lean ====
section
/-! DEFINITION. The configuration record that the reset state carries. `GPR_RESET` and the device opcode bytes are the
spec's own defaults (D5, D6). The spec gives NO default for `CODE_RPC`, `CODE_RSP` and `DEVICE_BUS_ADDR` (D3, D4):
the three values here are the model's DESIGN CHOICE (log entries 3 and 4), no statement rests on them, and every
statement about a state holds for every configuration record it can carry. -/

namespace Sys2Proof

/-- `CODE_RPC` of the reset state. DESIGN CHOICE, log entry 3. -/
def defaultCodeRpc : HalfWord := 0x000B

/-- `CODE_RSP` of the reset state. DESIGN CHOICE, log entry 3. -/
def defaultCodeRsp : HalfWord := 0x000C

/-- `DEVICE_BUS_ADDR` of the reset state. DESIGN CHOICE, log entry 4; program P5 of 95_test_vectors.md takes the same
address "for concreteness". -/
def defaultDeviceBusAddr : HalfWord := 0x8000

/-- The byte of `BUFFER`: the default of D5. -/
def defaultBufferByte : Byte := 0x01

/-- The byte of `DRAW`: the default of D5. -/
def defaultDrawByte : Byte := 0x02

/-- The byte of `CLEAR`: the default of D5. -/
def defaultClearByte : Byte := 0x03

/-- The idle bytes: 0x00 alone, the default of D5 (90_conflicts.md C4). -/
def defaultIdleBytes : List Byte := [0x00]

/-- `GPR_RESET`: the default of D6. -/
def defaultGprReset : HalfWord := 0x0000

/-- `ENABLE_DEVICE`: "default true" (R28). -/
def defaultEnableDevice : Bool := true

/-- The record of the reset state. -/
def Config.default : Config where
  codeRpc := defaultCodeRpc
  codeRsp := defaultCodeRsp
  deviceBusAddr := defaultDeviceBusAddr
  bufferByte := defaultBufferByte
  drawByte := defaultDrawByte
  clearByte := defaultClearByte
  idleBytes := defaultIdleBytes
  gprReset := defaultGprReset

end Sys2Proof
end

