-- ==== Sys2Proof/Machine/State.lean ====
section
/-! DEFINITION. The state of the DCA core (spec/10_state.md section 1): the register file, memory, the run state,
`ENABLE_DEVICE`, the display-sink trace; and, because the host's step takes no other argument, the constant
configuration record of 00_scope.md section 4. All of it is plain data. -/

namespace Sys2Proof.Machine

/-- The register file: twelve half-words (R10). -/
structure RegFile where
  r00 : HalfWord
  r01 : HalfWord
  r02 : HalfWord
  r03 : HalfWord
  r04 : HalfWord
  r05 : HalfWord
  r06 : HalfWord
  r07 : HalfWord
  r08 : HalfWord
  r09 : HalfWord
  /-- The program counter (R18). -/
  rpc : HalfWord
  /-- The halt sentinel: the image length modulo 65536 (R24). -/
  rsp : HalfWord
deriving DecidableEq, Repr

/-- The 65536 byte cells (R26) as the list of the cells that differ from zero, addresses strictly rising
(`Memory.wf` in Machine/Ops.lean). -/
abbrev Memory := List Host.Cell

/-- The fault kinds: "a closed enumeration of six constructors" (R130), with the information R130's table says each
carries (the address of the instruction stands in `RunState.faulted`). -/
inductive Cause where
  /-- A token of the image is not 8 characters of `0`/`1`; program load only (R131). -/
  | malformedEncoding (token : Token)
  /-- `UnknownOpcode(cpu, b)`: decode (R132). -/
  | unknownOpcodeCpu (b : Byte)
  /-- `UnknownOpcode(device, d)`: the device step (R133). -/
  | unknownOpcodeDevice (d : Byte)
  /-- A register operand is none of the twelve codes (R134). -/
  | unknownRegister (c : HalfWord)
  /-- A destination operand resolves to `RPC` or `RSP` (R135). -/
  | readOnlyRegisterViolation (r : RegName)
  /-- A memory index of 65536 or more (R136). -/
  | outOfBoundsAddress (i : Nat)
deriving DecidableEq, Repr

/-- The run state (R27). -/
inductive RunState where
  /-- Cycles are performed. -/
  | running
  /-- The engine observed `RPC == RSP`; terminal (R79). -/
  | halted
  /-- A fault aborted the run; `addr` is the address of the instruction of the faulting cycle; terminal (R80, R137). -/
  | faulted (cause : Cause) (addr : HalfWord)
  /-- The image was refused before execution; terminal (R160, R161). -/
  | loadFailed (cause : Cause)
deriving DecidableEq, Repr

/-- A command to the display sink (R121). The channels are the exact rationals of R115. -/
inductive Command where
  | setPixel (x y : HalfWord) (red green blue : Rat)
  | draw
  | clear
deriving DecidableEq, Repr

/-- Everything the spec gives the machine (10_state.md section 1). -/
structure State where
  /-- The register file (R10). -/
  regs : RegFile
  /-- Memory (R26). -/
  mem : Memory
  /-- The run state (R27). -/
  run : RunState
  /-- `ENABLE_DEVICE` (R28), constant during a run. -/
  enableDevice : Bool
  /-- The display-sink trace, oldest command first (R29). -/
  trace : List Command
  /-- The model's own field: the constant configuration record (log entry 2). -/
  cfg : Config
deriving DecidableEq, Repr

/-- Why the host's step gives no next state: the run has already ended in a fault, and no cycle is performed. -/
inductive Fault where
  /-- Raised by `step` alone, from a state whose run is `Faulted(cause, addr)` (R80, R141): the fault itself was TAKEN
  by the step before, as a next state (log entry 1). Safe: nothing is claimed of a machine that performs no cycle. -/
  | runFaulted (cause : Cause) (addr : HalfWord)
  /-- Raised by `step` alone, from a state whose run is `LoadFailed(cause)` (R160, R161: "no cycle runs"). Safe. -/
  | loadFailed (cause : Cause)
deriving DecidableEq, Repr

/-- The instruction list is closed and every instruction has its meaning, so nothing raises a refusal. -/
inductive Refusal where
  /-- For an arm of `exec` without a meaning; no arm answers it. Safe. -/
  | notModelled (mnemonic : String)
deriving DecidableEq, Repr

/-- The three outcomes of an instruction and of a step. -/
abbrev Result := Host.Outcome State Fault Refusal

/-- The machine right after reset with nothing loaded (R155 to R163 for the empty image): memory zero, `RPC` 0, `RSP`
the length 0, `R00` .. `R09` at `GPR_RESET`, `run` `Running` (the first halt check is the first step's, R78), the
trace empty. `Machine/Load.lean` gives the same reset for any image and configuration. -/
def State.reset : State where
  regs :=
    { r00 := defaultGprReset, r01 := defaultGprReset, r02 := defaultGprReset, r03 := defaultGprReset,
      r04 := defaultGprReset, r05 := defaultGprReset, r06 := defaultGprReset, r07 := defaultGprReset,
      r08 := defaultGprReset, r09 := defaultGprReset, rpc := 0, rsp := 0 }
  mem := []
  run := .running
  enableDevice := defaultEnableDevice
  trace := []
  cfg := Config.default

end Sys2Proof.Machine
end

