-- ==== Sys2Proof/Machine/Ops.lean ====
section
/-! DEFINITION. The named operations over registers and memory, the entry to a fault, and the advance. There is no
return from a fault (R141), no privilege mode (R142) and no other storage. -/

namespace Sys2Proof.Machine

/-! ### The register file -/

/-- `x[r]`: the read by name (00_scope.md section 5). -/
def RegFile.get (f : RegFile) : RegName → HalfWord
  | .r00 => f.r00
  | .r01 => f.r01
  | .r02 => f.r02
  | .r03 => f.r03
  | .r04 => f.r04
  | .r05 => f.r05
  | .r06 => f.r06
  | .r07 => f.r07
  | .r08 => f.r08
  | .r09 => f.r09
  | .rpc => f.rpc
  | .rsp => f.rsp

/-- `x[r] <- v`: the unsafe write by name (R16). -/
def RegFile.put (f : RegFile) (r : RegName) (v : HalfWord) : RegFile :=
  match r with
  | .r00 => { f with r00 := v }
  | .r01 => { f with r01 := v }
  | .r02 => { f with r02 := v }
  | .r03 => { f with r03 := v }
  | .r04 => { f with r04 := v }
  | .r05 => { f with r05 := v }
  | .r06 => { f with r06 := v }
  | .r07 => { f with r07 := v }
  | .r08 => { f with r08 := v }
  | .r09 => { f with r09 := v }
  | .rpc => { f with rpc := v }
  | .rsp => { f with rsp := v }

/-! ### Memory -/

/-- The number of byte cells (R26, R30). -/
def memSize : Nat := 65536

/-- What a cell that nothing has written holds: memory is "all initialized to the zero byte" (R26). -/
def Memory.unlisted : Byte := 0

/-- The byte of a cell, for any index. -/
def Memory.byteAt : Memory → Nat → Byte
  | [], _ => Memory.unlisted
  | c :: m, a => if c.1 = a then c.2 else Memory.byteAt m a

/-- The list without the cell `a`. -/
def Memory.without (m : Memory) (a : Nat) : Memory := m.filter fun c => c.1 != a

/-- A cell put in its place by address. -/
def Memory.place : Memory → Host.Cell → Memory
  | [], d => [d]
  | c :: m, d => if d.1 < c.1 then d :: c :: m else c :: Memory.place m d

/-- The cell `a` overwritten; a cell that becomes what an unlisted one holds is no longer listed. -/
def Memory.setByte (m : Memory) (a : Nat) (b : Byte) : Memory :=
  if b = Memory.unlisted then m.without a else (m.without a).place (a, b)

/-- The canonical form: addresses strictly rising, every listed cell inside the 65536 cells of R26 and different from
an unlisted one. -/
abbrev Memory.wf (m : Memory) : Prop :=
  m.Pairwise (fun c d => c.1 < d.1) ∧ ∀ c ∈ m, c.2 ≠ Memory.unlisted ∧ c.1 < memSize

/-- The bytes at `a`, `a+1`, .., in that order; the index arithmetic does not wrap, and the first index out of range
is reported (R32, R33). -/
def Memory.readBytes (m : Memory) (a : Nat) : Nat → Except Cause (List Byte)
  | 0 => .ok []
  | n + 1 =>
    if a < memSize then
      match Memory.readBytes m (a + 1) n with
      | .ok bs => .ok (m.byteAt a :: bs)
      | .error e => .error e
    else .error (.outOfBoundsAddress a)

/-- `MemRead(addr, n)`: the bytes assembled big-endian (R33). -/
def Memory.read (m : Memory) (a n : Nat) : Except Cause Nat :=
  match m.readBytes a n with
  | .ok bs => .ok (bytesToNat bs)
  | .error e => .error e

/-- The bytes written in ascending index order; what was written before an index out of range stays written (R32, R34).
The second component is the fault, if one was met. -/
def Memory.writeBytes (m : Memory) (a : Nat) : List Byte → Memory × Option Cause
  | [] => (m, none)
  | b :: bs =>
    if a < memSize then Memory.writeBytes (m.setByte a b) (a + 1) bs
    else (m, some (.outOfBoundsAddress a))

/-- `MemWrite(addr, n, v)`: the most significant byte first (R34). -/
def Memory.write (m : Memory) (a n v : Nat) : Memory × Option Cause :=
  m.writeBytes a (natToBytes n v)

/-! ### The state's accessors and updates -/

/-- Register `r` of the state. -/
def State.reg (s : State) (r : RegName) : HalfWord := s.regs.get r

/-- Memory cell `a` of the state. -/
def State.byte (s : State) (a : Nat) : Byte := s.mem.byteAt a

/-- The unsafe write of a register (R16). -/
def State.setReg (s : State) (r : RegName) (v : HalfWord) : State := { s with regs := s.regs.put r v }

/-- Memory replaced. -/
def State.setMem (s : State) (m : Memory) : State := { s with mem := m }

/-- The run state replaced. -/
def State.setRun (s : State) (r : RunState) : State := { s with run := r }

/-- `emit c`: the command is appended to the display-sink trace (R121). -/
def State.emit (s : State) (c : Command) : State := { s with trace := s.trace ++ [c] }

/-! ### Taking a fault -/

/-- Fault entry (R137): `run <- Faulted(cause, a)`. Nothing is saved, no vector, no mode change; registers, memory and
the trace stay as the failing instruction or device step left them (R80, R138). -/
def State.raiseAt (s : State) (a : HalfWord) (e : Cause) : State := s.setRun (.faulted e a)

/-- The fault of the instruction itself: `RPC` still holds its address (R19, R137). -/
def State.raise (s : State) (e : Cause) : State := s.raiseAt (s.reg .rpc) e

/-! ### The advance -/

/-- `Advance()`: `x[RPC] <- (x[RPC] + 5) mod 65536`, an unsafe write (R74). -/
def State.advance (s : State) : State :=
  s.setReg .rpc (decToHalfWord (halfWordToDec (s.reg .rpc) + 5))

/-! ### Memory access of an instruction -/

/-- Read memory and go on with the value, or take the fault; a faulting read leaves no trace (R33). -/
def State.readMem (s : State) (a n : Nat) (k : Nat → Result) : Result :=
  match s.mem.read a n with
  | .ok v => k v
  | .error e => .next (s.raise e)

/-- Write memory and go on, or take the fault with the bytes already written standing (R34, R138). -/
def State.writeMem (s : State) (a n v : Nat) (k : State → Result) : Result :=
  match (s.mem.write a n v).2 with
  | none => k (s.setMem (s.mem.write a n v).1)
  | some e => .next ((s.setMem (s.mem.write a n v).1).raise e)

end Sys2Proof.Machine
end

