-- ==== Sys2Proof/Machine/Device.lean ====
section
/-! DEFINITION. The device bus adapter (spec/50_device_bus.md): a step of the engine's cycle that reads seven memory
cells and emits at most one command. It writes no register and no memory cell (R119). -/

namespace Sys2Proof.Machine

/-- `Norm(f, w) = f * 255 / (2^w - 1)`, an exact rational (R115, 90_conflicts.md C2). -/
def norm (f w : Nat) : Rat := mkRat (f * 255 : Nat) (2 ^ w - 1)

/-- The red field `c[15:11]` (R114). -/
def redField (c : HalfWord) : Nat := (c.extractLsb' 11 5).toNat

/-- The green field `c[10:5]` (R114). -/
def greenField (c : HalfWord) : Nat := (c.extractLsb' 5 6).toNat

/-- The blue field `c[4:0]` (R114). -/
def blueField (c : HalfWord) : Nat := (c.extractLsb' 0 5).toNat

/-- The command of a `BUFFER` payload (R110, R113, R114, R115). -/
def pixelCommand (x y c : HalfWord) : Command :=
  .setPixel x y (norm (redField c) 5) (norm (greenField c) 6) (norm (blueField c) 5)

/-- The three payload half-words at `A+1`, `A+3`, `A+5`, read in that order (R113). -/
def readPayload (m : Memory) (A : Nat) : Except Cause Command :=
  match m.read (A + 1) 2 with
  | .error e => .error e
  | .ok x =>
    match m.read (A + 3) 2 with
    | .error e => .error e
    | .ok y =>
      match m.read (A + 5) 2 with
      | .error e => .error e
      | .ok c => .ok (pixelCommand (decToHalfWord x) (decToHalfWord y) (decToHalfWord c))

/-- What one poll of the device bus asks for: nothing, a command, or a fault (R110 to R118). Its only inputs are the
configuration and memory (R119). -/
def devicePoll (cfg : Config) (m : Memory) : Except Cause (Option Command) :=
  match m.read (halfWordToDec cfg.deviceBusAddr) 1 with
  | .error e => .error e
  | .ok d =>
    match cfg.devop (decToByte d) with
    | .idle => .ok none
    | .buffer =>
      match readPayload m (halfWordToDec cfg.deviceBusAddr) with
      | .ok c => .ok (some c)
      | .error e => .error e
    | .draw => .ok (some .draw)
    | .clear => .ok (some .clear)
    | .unknown => .error (.unknownOpcodeDevice (decToByte d))

/-- `DeviceBusCycle()` (R110). `a` is the address of the instruction executed in this cycle: the address a device
fault reports (R123, R137). -/
def deviceBusCycle (a : HalfWord) (s : State) : State :=
  match devicePoll s.cfg s.mem with
  | .ok none => s
  | .ok (some c) => s.emit c
  | .error e => s.raiseAt a e

/-- The device step: skipped entirely when `ENABLE_DEVICE` is false (R28, R76, R110). -/
def deviceStep (a : HalfWord) (s : State) : State :=
  if s.enableDevice then deviceBusCycle a s else s

end Sys2Proof.Machine
end

