-- ==== Sys2Proof/Machine/Flags.lean ====
section
/-! DEFINITION. The core has NO flags (R23): `ADD` and `SUB` record no carry, borrow, overflow, zero or sign. What
stands here instead is the arithmetic whose carry and borrow are lost (R7, R102) and the one condition the
machine tests (R105). Values are computed exactly and narrowed at the end. -/

namespace Sys2Proof.Machine

/-- `(a + b) mod 65536` (R100); the carry out of bit 15 is lost. -/
def addWrap (a b : HalfWord) : HalfWord := decToHalfWord (halfWordToDec a + halfWordToDec b)

/-- `(a - b) mod 65536` with the non-negative `mod` (R101, R3): the difference is normalised before it is encoded. -/
def subWrap (a b : HalfWord) : HalfWord :=
  decToHalfWord ((((halfWordToDec a : Int) - (halfWordToDec b : Int)) % 65536).toNat)

/-- The condition of `CJUMP`: all 16 bits of the register are zero (R23, R105). -/
def isZero (v : HalfWord) : Bool := halfWordToDec v == 0

end Sys2Proof.Machine
end

