-- ==== Sys2Proof/Machine/Operands.lean ====
section
/-! DEFINITION. The operand forms (R53): a register operand is a register code, read through `RegGet` (R14) or written
through the protected `RegSet` (R15); `SET`'s operand2 is a literal used as it stands. The only addressing mode is
register indirect (R94): the value of a register operand is the index of the cell. -/

namespace Sys2Proof.Machine

/-- `RegGet(c)` (R14): unprotected; the one failure is `UnknownRegister`. -/
def State.regGet (s : State) (c : HalfWord) : Except Cause HalfWord :=
  match s.cfg.resolve c with
  | some r => .ok (s.reg r)
  | none => .error (.unknownRegister c)

/-- `RegSet(c, v)` (R15): resolution first, then the protection of `RPC` and `RSP`, then the write. -/
def State.regSet (s : State) (c v : HalfWord) : Except Cause State :=
  match s.cfg.resolve c with
  | some r => if readOnly r then .error (.readOnlyRegisterViolation r) else .ok (s.setReg r v)
  | none => .error (.unknownRegister c)

/-- Read a register operand and go on with its value, or take the fault (R57). -/
def State.readOperand (s : State) (c : HalfWord) (k : HalfWord → Result) : Result :=
  match s.regGet c with
  | .ok v => k v
  | .error e => .next (s.raise e)

/-- Write the destination operand and go on, or take the fault with nothing written (R15, R58). -/
def State.writeOperand (s : State) (c v : HalfWord) (k : State → Result) : Result :=
  match s.regSet c v with
  | .ok t => k t
  | .error e => .next (s.raise e)

end Sys2Proof.Machine
end

