-- ==== Sys2Proof/Machine/Arith.lean ====
section
/-! DEFINITION. The arithmetic instructions `ADD` and `SUB` (spec/43_arithmetic.md). -/

namespace Sys2Proof.Machine

/-- `ADD` (R100): both reads, then the protected write of operand1. -/
def execAdd (op1 op2 : HalfWord) (s : State) : Result :=
  s.readOperand op1 fun a =>
    s.readOperand op2 fun b => s.writeOperand op1 (addWrap a b) fun t => .next t.advance

/-- `SUB` (R101): both reads, then the protected write of operand1. -/
def execSub (op1 op2 : HalfWord) (s : State) : Result :=
  s.readOperand op1 fun a =>
    s.readOperand op2 fun b => s.writeOperand op1 (subWrap a b) fun t => .next t.advance

end Sys2Proof.Machine
end

