-- ==== Sys2Proof/Machine/Control.lean ====
section
/-! DEFINITION. The control transfer instruction `CJUMP` (spec/44_control_transfer.md). -/

namespace Sys2Proof.Machine

/-- `CJUMP` (R105, R106): both operands are resolved whether or not the jump is taken; there is no advance, taken or
not, so a jump that is not taken changes nothing. -/
def execCjump (op1 op2 : HalfWord) (s : State) : Result :=
  s.readOperand op1 fun target =>
    s.readOperand op2 fun c => if isZero c then .next (s.setReg .rpc target) else .next s

end Sys2Proof.Machine
end

