-- ==== Sys2Proof/Machine/LoadStore.lean ====
section
/-! DEFINITION. The load and store instructions `LOAD`, `STORE`, `LOADH`, `STOREH` (spec/42_load_store.md). -/

namespace Sys2Proof.Machine

/-- `LOAD` (R90): one byte, zero-extended. -/
def execLoad (op1 op2 : HalfWord) (s : State) : Result :=
  s.readOperand op1 fun addr =>
    s.readMem (halfWordToDec addr) 1 fun b =>
      s.writeOperand op2 (zext16 (decToByte b)) fun t => .next t.advance

/-- `STORE` (R91): the low byte of the value register. -/
def execStore (op1 op2 : HalfWord) (s : State) : Result :=
  s.readOperand op1 fun v =>
    s.readOperand op2 fun addr =>
      s.writeMem (halfWordToDec addr) 1 (byteToDec (lo v)) fun t => .next t.advance

/-- `LOADH` (R92): two bytes, the first the high byte. -/
def execLoadh (op1 op2 : HalfWord) (s : State) : Result :=
  s.readOperand op1 fun addr =>
    s.readMem (halfWordToDec addr) 2 fun v =>
      s.writeOperand op2 (decToHalfWord v) fun t => .next t.advance

/-- `STOREH` (R93): two bytes, the high byte first; at address 65535 the high byte is written and then the fault is
taken. -/
def execStoreh (op1 op2 : HalfWord) (s : State) : Result :=
  s.readOperand op1 fun v =>
    s.readOperand op2 fun addr =>
      s.writeMem (halfWordToDec addr) 2 (halfWordToDec v) fun t => .next t.advance

end Sys2Proof.Machine
end

