-- ==== Sys2Proof/Machine/RegTransfer.lean ====
section
/-! DEFINITION. The register transfer instructions `SET` and `MOV` (spec/41_register_transfer.md). -/

namespace Sys2Proof.Machine

/-- `SET` (R85). -/
def execSet (op1 op2 : HalfWord) (s : State) : Result :=
  s.writeOperand op1 op2 fun t => .next t.advance

/-- `MOV` (R86). -/
def execMov (op1 op2 : HalfWord) (s : State) : Result :=
  s.readOperand op1 fun v => s.writeOperand op2 v fun t => .next t.advance

end Sys2Proof.Machine
end

