-- ==== Sys2Proof/Machine/Dispatch.lean ====
section
/-! DEFINITION. `Execute(kind, op1, op2)` (R73): one arm per instruction, each one call of its meaning. -/

namespace Sys2Proof.Machine

/-- The engine "invokes the matching operation" (R73). -/
def exec (i : Instr) (s : State) : Host.Outcome State Fault Refusal :=
  match i with
  | .load op1 op2 => Sys2Proof.Machine.execLoad op1 op2 s
  | .store op1 op2 => Sys2Proof.Machine.execStore op1 op2 s
  | .set op1 op2 => Sys2Proof.Machine.execSet op1 op2 s
  | .loadh op1 op2 => Sys2Proof.Machine.execLoadh op1 op2 s
  | .storeh op1 op2 => Sys2Proof.Machine.execStoreh op1 op2 s
  | .add op1 op2 => Sys2Proof.Machine.execAdd op1 op2 s
  | .sub op1 op2 => Sys2Proof.Machine.execSub op1 op2 s
  | .cjump op1 op2 => Sys2Proof.Machine.execCjump op1 op2 s
  | .mov op1 op2 => Sys2Proof.Machine.execMov op1 op2 s

end Sys2Proof.Machine
end

