-- ==== Sys2Proof/Machine/Cycle.lean ====
section
/-! DEFINITION. The engine's cycle (spec/40_execution_cycle.md): fetch, decode, execute, device step, halt check; and
the placing of a table word for the host. -/

namespace Sys2Proof.Machine

/-- Fetch (R71): all five bytes at `RPC` before anything is decoded; addresses are not wrapped. -/
def fetch (s : State) : Except Cause InstrWord :=
  match s.mem.read (halfWordToDec (s.reg .rpc)) 5 with
  | .ok v => .ok (BitVec.ofNat 40 v)
  | .error e => .error e

/-- The halt check (R77): equality of `RPC` and `RSP` and nothing else, in a run that is still running. -/
def haltCheck (s : State) : State :=
  match s.run with
  | .running => if s.reg .rpc = s.reg .rsp then s.setRun .halted else s
  | .halted | .faulted _ _ | .loadFailed _ => s

/-- The rest of a cycle after its instruction (R70): the device step and the halt check, unless the instruction
faulted (R80). `a` is the instruction's address. -/
def afterInstr (a : HalfWord) (s : State) : State :=
  match s.run with
  | .running => haltCheck (deviceStep a s)
  | .halted | .faulted _ _ | .loadFailed _ => s

/-- What the cycle makes of the outcome of its instruction. -/
def finishCycle (a : HalfWord) (o : Result) : Result :=
  match o with
  | .next t => .next (afterInstr a t)
  | .fault f => .fault f
  | .refused r => .refused r

/-- `Cycle()` (R70), for a running state with `x[RPC] != x[RSP]`. Decode comes after the whole fetch (R72). -/
def cycle (s : State) : Result :=
  match fetch s with
  | .error e => .next (s.raise e)
  | .ok I =>
    match decodeWord I with
    | .error b => .next (s.raise (.unknownOpcodeCpu b))
    | .ok i => finishCycle (s.reg .rpc) (exec i s)

/-- One step of the engine's loop (R78): the halt check at the boundary, then one cycle. A halted run stays as it is
(R79); a run that has faulted or whose load failed performs no cycle (R80, R141, R160; log entry 1). -/
def engineStep (s : State) : Result :=
  match s.run with
  | .running => if s.reg .rpc = s.reg .rsp then .next (s.setRun .halted) else cycle s
  | .halted => .next s
  | .faulted e a => .fault (.runFaulted e a)
  | .loadFailed e => .fault (.loadFailed e)

/-- The halt sentinel moved past a word placed at `RPC`, if it stood at the word: what loading that word as an image
does to `RSP` (R159). -/
def sentinelPast (s : State) : HalfWord :=
  if s.reg .rpc = s.reg .rsp then decToHalfWord (halfWordToDec (s.reg .rpc) + 5) else s.reg .rsp

/-- The host's word stored in the five cells at `RPC`, the run running and its halt sentinel not at `RPC`: the program
load of that word (R158, R159, R163; log entry 10). -/
def placeFetchWord (s : State) (nbits w : Nat) : State :=
  ((s.setMem (s.mem.writeBytes (halfWordToDec (s.reg .rpc)) (natToBytes 5 (tableWord nbits w).toNat)).1).setReg
    .rsp (sentinelPast s)).setRun .running

end Sys2Proof.Machine
end

