-- ==== Sys2Proof/Machine/Step.lean ====
section
/-! DEFINITION. The step of the machine and the host's placing of an instruction. Both are bodies of
Machine/Cycle.lean. -/

namespace Sys2Proof.Machine

/-- One step: R70, R78, R79, R80. -/
def step (s : State) : Host.Outcome State Fault Refusal := engineStep s

/-- `s` with the table word `w` placed so that the next step fetches and runs it (log entry 10). -/
def State.withFetchWord (s : State) (nbits w : Nat) : State := placeFetchWord s nbits w

end Sys2Proof.Machine
end

