-- ==== Sys2Proof/Machine/Load.lean ====
section
/-! DEFINITION. Reset and program load (spec/70_reset_and_hazards.md section 1): the creation of a run from an image
and a configuration. -/

namespace Sys2Proof.Machine

/-- The loop of R155 over the tokens of the image, `n` tokens being placed already: the memory it leaves, and the
token count or the cause of the failed load (R158, R160, R161). -/
def loadTokens (m : Memory) (n : Nat) : List Token → Memory × Except Cause Nat
  | [] => (m, .ok n)
  | t :: ts =>
    if wellFormedByte t then
      if n < memSize then loadTokens (m.setByte n (tokenValue t)) (n + 1) ts
      else (m, .error (.outOfBoundsAddress n))
    else (m, .error (.malformedEncoding t))

/-- The state before the image is placed: memory zero (R156), `RPC` 0 (R157), `R00` .. `R09` at `GPR_RESET` (R162),
the trace empty and `run` `Running` (R163). `RSP` is written when the load is complete (R159). -/
def blankState (cfg : Config) (enableDevice : Bool) : State where
  regs :=
    { r00 := cfg.gprReset, r01 := cfg.gprReset, r02 := cfg.gprReset, r03 := cfg.gprReset, r04 := cfg.gprReset,
      r05 := cfg.gprReset, r06 := cfg.gprReset, r07 := cfg.gprReset, r08 := cfg.gprReset, r09 := cfg.gprReset,
      rpc := 0, rsp := 0 }
  mem := []
  run := .running
  enableDevice := enableDevice
  trace := []
  cfg := cfg

/-- `Reset(image, config)` (R155). After a failed load nothing of the state but `run` means anything (D23). -/
def State.load (cfg : Config) (enableDevice : Bool) (image : List Token) : State :=
  let loaded := loadTokens [] 0 image
  let s := (blankState cfg enableDevice).setMem loaded.1
  match loaded.2 with
  | .ok n => s.setReg .rsp (decToHalfWord n)
  | .error e => s.setRun (.loadFailed e)

/-- Reset from the image's text (R158, R177 "program load"). -/
def State.loadText (cfg : Config) (enableDevice : Bool) (text : List Char) : State :=
  State.load cfg enableDevice (tokensOfText text)

end Sys2Proof.Machine
end

