-- ==== Sys2Proof/WellFormed.lean ====
section
/-! DEFINITION. Which instructions are legal under a configuration record: every register operand is a register code
(R57) and the operand in a write position is not a read-only register (R58). An ill-formed instruction still
decodes and executes; it faults (R55, R57, R58). -/

namespace Sys2Proof

/-- The register operands, in the order the instruction resolves them (R53, R139). -/
def Instr.registerOperands : Instr → List HalfWord
  | .set op1 _ => [op1]
  | .load op1 op2 | .store op1 op2 | .loadh op1 op2 | .storeh op1 op2
  | .add op1 op2 | .sub op1 op2 | .cjump op1 op2 | .mov op1 op2 => [op1, op2]

/-- The operand in a write position (R58), if the instruction has one. -/
def Instr.writeOperand : Instr → Option HalfWord
  | .set op1 _ | .add op1 _ | .sub op1 _ => some op1
  | .mov _ op2 | .load _ op2 | .loadh _ op2 => some op2
  | .store _ _ | .storeh _ _ | .cjump _ _ => none

/-- Every register operand is one of the twelve register codes (R57). -/
def Instr.codesKnown (cfg : Config) (i : Instr) : Bool :=
  i.registerOperands.all fun c => (cfg.resolve c).isSome

/-- The operand in a write position, if any, does not resolve to `RPC` or `RSP` (R58). -/
def Instr.destinationWritable (cfg : Config) (i : Instr) : Bool :=
  match i.writeOperand with
  | none => true
  | some c =>
    match cfg.resolve c with
    | none => true
    | some r => !readOnly r

/-- A legal instruction: both checks. -/
def Instr.wellFormed (cfg : Config) (i : Instr) : Bool :=
  i.codesKnown cfg && i.destinationWritable cfg

end Sys2Proof
end

