-- ==== Sys2Proof/Safety.lean ====
section
/-! DEFINITION. The vocabulary of the claims: what an operation leaves unchanged, what a run state may say, the
invariant that every step keeps, and the end of a run. -/

namespace Sys2Proof.Machine

/-! ### Frames -/

/-- Every register outside `rs` is unchanged. -/
def regsSameBut (rs : List RegName) (s t : State) : Prop := ∀ r, r ∉ rs → t.reg r = s.reg r

/-- Every byte of memory reads as before. -/
def memSame (s t : State) : Prop := ∀ a, t.byte a = s.byte a

/-- Every byte of memory outside the `n` bytes at `b` reads as before. -/
def memSameBut (b n : Nat) (s t : State) : Prop := ∀ a, a < b ∨ b + n ≤ a → t.byte a = s.byte a

/-- The display-sink trace, `ENABLE_DEVICE` and the configuration are unchanged. -/
def surroundSame (s t : State) : Prop :=
  t.trace = s.trace ∧ t.enableDevice = s.enableDevice ∧ t.cfg = s.cfg

/-- `RPC` has moved to the next instruction (R74). -/
def advanced (s t : State) : Prop := (t.reg .rpc).toNat = ((s.reg .rpc).toNat + 5) % 65536

/-- What a register-writing instruction leaves alone and where it goes: everything but `r` and `RPC` is unchanged, the
run state included, and `RPC` has advanced. -/
def onlyReg (r : RegName) (s t : State) : Prop :=
  advanced s t ∧ regsSameBut [r, .rpc] s t ∧ memSame s t ∧ surroundSame s t ∧ t.run = s.run

/-- What a storing instruction leaves alone and where it goes: every register but `RPC`, every byte outside the `n` at
`b`, the run state; and `RPC` has advanced. -/
def onlyBytes (b n : Nat) (s t : State) : Prop :=
  advanced s t ∧ regsSameBut [.rpc] s t ∧ memSameBut b n s t ∧ surroundSame s t ∧ t.run = s.run

/-- The fault `e` has been taken with nothing else changed (R137, R138): `RPC` still holds the address that the fault
reports. -/
def faultedWith (e : Cause) (s t : State) : Prop :=
  t.run = .faulted e (s.reg .rpc) ∧ regsSameBut [] s t ∧ memSame s t ∧ surroundSame s t

/-- A register that an instruction may write through its destination operand (R15). -/
def writable (r : RegName) : Prop := r ≠ .rpc ∧ r ≠ .rsp

/-! ### Run states -/

/-- A cause that a cycle can raise, with the ground R130's table gives for it. An index out of range is always the
first one, 65536. -/
def Cause.genuine (cfg : Config) (enableDevice : Bool) : Cause → Prop
  | .malformedEncoding _ => False
  | .unknownOpcodeCpu b => ∀ k, opcodeByte k ≠ b
  | .unknownOpcodeDevice d => enableDevice = true ∧ cfg.devop d = .unknown
  | .unknownRegister c => ∀ r, cfg.code r ≠ c
  | .readOnlyRegisterViolation r => r = .rpc ∨ r = .rsp
  | .outOfBoundsAddress i => i = 65536

/-- A cause that a program load can raise (R160, R161). -/
def Cause.fromLoad : Cause → Prop
  | .malformedEncoding t => wellFormedByte t = false
  | .outOfBoundsAddress i => i = 65536
  | .unknownOpcodeCpu _ | .unknownOpcodeDevice _ | .unknownRegister _ | .readOnlyRegisterViolation _ => False

/-- What the run state says is so: halted only where `RPC == RSP` (R77), a fault only with a ground. -/
def State.runHonest (s : State) : Prop :=
  match s.run with
  | .running => True
  | .halted => s.reg .rpc = s.reg .rsp
  | .faulted e _ => e.genuine s.cfg s.enableDevice
  | .loadFailed e => e.fromLoad

/-- The invariant: memory is in its canonical form and the run state is honest. -/
def State.Inv (s : State) : Prop := s.mem.wf ∧ s.runHonest

/-! ### Runs -/

/-- `k` steps of the machine. -/
def runSteps (k : Nat) (s : State) : Result := Host.Core.run Sys2Proof.core k s

/-- The state with `ENABLE_DEVICE` false and an empty trace: what R122 compares a run with. -/
def State.withoutDevice (s : State) : State := { s with enableDevice := false, trace := [] }

/-- The instruction in the five cells at `RPC`, if they lie in memory and are one (R71, R72). -/
def State.nextInstr (s : State) : Option Instr :=
  match fetch s with
  | .error _ => none
  | .ok I =>
    match decodeWord I with
    | .error _ => none
    | .ok i => some i

/-- A run has ended normally iff it has halted (R178). -/
def State.endedNormally (s : State) : Prop := s.run = .halted

/-- A safe step: a next state whose run has not faulted. -/
def safeStep (s : State) : Prop := ∃ t, step s = .next t ∧ ∀ e a, t.run ≠ .faulted e a

end Sys2Proof.Machine
end

