-- ==== Sys2Proof/Certificates/Slice0/Obligations.lean ====
section
/-! DEFINITION. The statements for the provers, each formalising rules of spec/ named in its docstring. Every statement
about a state holds for every configuration record the state carries; none rests on a value the model chose. -/

open Sys2Proof Sys2Proof.Machine

/-! ### Codec and encoding -/

/-- R5: the codec's round trips and its wraparound. -/
def Obligations.CodecRoundTripsAndWraps : Prop :=
  (∀ n, n ≤ 255 → byteToDec (decToByte n) = n) ∧
  (∀ n, n ≤ 65535 → halfWordToDec (decToHalfWord n) = n) ∧
  decToByte 256 = decToByte 0 ∧ decToHalfWord 65536 = decToHalfWord 0

/-- R2: a half-word is its high byte times 256 plus its low byte, `hi` and `lo` are its bits 15:8 and 7:0, and putting
them together gives it back. -/
def Obligations.HalfWordIsHighThenLowByte : Prop :=
  (∀ h l : Byte, (hw h l).toNat = h.toNat * 256 + l.toNat) ∧
  (∀ v : HalfWord, (hi v).toNat = v.toNat / 256 ∧ (lo v).toNat = v.toNat % 256 ∧ hw (hi v) (lo v) = v)

/-- R158: the leftmost character of a well-formed token is bit 7 of its byte. -/
def Obligations.TokenLeftmostCharacterIsBitSeven : Prop :=
  ∀ t : Token, wellFormedByte t = true →
    ∀ j, j < 8 → (tokenValue t).getLsbD (7 - j) = decide (t[j]? = some '1')

/-- R50, R51, R54: decoding the five bytes of any instruction gives that instruction, for every value of both
operands. (The opcode bytes other than 0x03 are decision D1; the statement holds for the table as it stands.) -/
def Obligations.DecodeOfEncodeIsIdentity : Prop :=
  ∀ i : Instr, decode (encode i) = .ok i ∧ decodeWord (encodeWord i) = .ok i

/-- R51, R54: every byte sequence has at most one reading: what decodes to an instruction is that instruction's
encoding. -/
def Obligations.DecodedBytesAreTheEncoding : Prop :=
  (∀ (bs : List Byte) (i : Instr), decode bs = .ok i → bs = encode i) ∧
  (∀ (I : InstrWord) (i : Instr), decodeWord I = .ok i → I = encodeWord i)

/-- Words written out from the encodings of 30_encoding.md R54 and 95_test_vectors.md T-DE1 to T-DE6 (sanity; all but
the `SET` byte are decision D1). -/
def Obligations.SampleWordsDecode : Prop :=
  decode [0x03, 0x00, 0x01, 0x00, 0x05] = .ok (.set 0x0001 0x0005) ∧
  decode [0x09, 0x00, 0x01, 0x00, 0x02] = .ok (.mov 0x0001 0x0002) ∧
  decode [0x04, 0x12, 0x34, 0xAB, 0xCD] = .ok (.loadh 0x1234 0xABCD) ∧
  decode [0x06, 0x00, 0x01, 0x00, 0x02] = .ok (.add 0x0001 0x0002) ∧
  decode [0x08, 0x00, 0x01, 0x00, 0x02] = .ok (.cjump 0x0001 0x0002) ∧
  decode [0x00, 0x00, 0x00, 0x00, 0x00] = .error (.invalidOpcode 0x00) ∧
  decode [0x0A, 0x00, 0x01, 0x00, 0x02] = .error (.invalidOpcode 0x0A)

/-- R55, R132: the opcode byte alone decides the kind, whatever the operands; a byte outside the table is no
instruction, and a cycle that fetches one faults with `UnknownOpcode(cpu, b)`, nothing else being changed (R137; that
the fault reports `RPC` is the spec's decision D11, log entry 8). -/
def Obligations.OpcodeByteAloneDecides : Prop :=
  (∀ (k : Kind) (a b : HalfWord), decodeWord (mkWord (opcodeByte k) a b) = .ok (k.instr a b)) ∧
  (∀ (o : Byte) (a b : HalfWord), (∀ k, opcodeByte k ≠ o) → decodeWord (mkWord o a b) = .error o) ∧
  (∀ (s : State) (I : InstrWord), s.run = .running → s.reg .rpc ≠ s.reg .rsp → fetch s = .ok I →
    (∀ k, opcodeByte k ≠ wordOpcode I) →
    ∃ t, step s = .next t ∧ faultedWith (.unknownOpcodeCpu (wordOpcode I)) s t)

/-- R52: the fetched word's fields are the opcode byte at `RPC` and the two big-endian half-words after it. -/
def Obligations.OperandsAreBigEndianAfterTheOpcode : Prop :=
  ∀ s : State, (s.reg .rpc).toNat ≤ 65531 →
    ∃ I, fetch s = .ok I ∧ wordOpcode I = s.byte (s.reg .rpc).toNat ∧
      wordOp1 I = hw (s.byte ((s.reg .rpc).toNat + 1)) (s.byte ((s.reg .rpc).toNat + 2)) ∧
      wordOp2 I = hw (s.byte ((s.reg .rpc).toNat + 3)) (s.byte ((s.reg .rpc).toNat + 4)) ∧
      I.toNat = (wordOpcode I).toNat * 2 ^ 32 + (wordOp1 I).toNat * 2 ^ 16 + (wordOp2 I).toNat

/-! ### Registers -/

/-- R12, R14: under pairwise distinct codes, `RegGet` through a register's code gives that register, `RPC` and `RSP`
included; a half-word that is no register's code gives `UnknownRegister`. -/
def Obligations.RegisterCodeReadsItsRegister : Prop :=
  ∀ s : State, s.cfg.codesWf →
    (∀ r, s.cfg.resolve (s.cfg.code r) = some r ∧ s.regGet (s.cfg.code r) = .ok (s.reg r)) ∧
    (∀ c, (∀ r, s.cfg.code r ≠ c) → s.regGet c = .error (.unknownRegister c))

/-- R15, R16: the protected write through a code changes that register and nothing else; through the code of `RPC` or
`RSP` it is a read-only violation; through no register's code it is an unknown register; the unsafe write by name
does write `RPC`. -/
def Obligations.ProtectedWriteSparesRpcAndRsp : Prop :=
  ∀ (s : State) (v : HalfWord), s.cfg.codesWf →
    (∀ r, writable r → ∃ t, s.regSet (s.cfg.code r) v = .ok t ∧ t.reg r = v ∧ regsSameBut [r] s t ∧
      memSame s t ∧ surroundSame s t ∧ t.run = s.run) ∧
    (∀ r, ¬ writable r → s.regSet (s.cfg.code r) v = .error (.readOnlyRegisterViolation r)) ∧
    (∀ c, (∀ r, s.cfg.code r ≠ c) → s.regSet c v = .error (.unknownRegister c)) ∧
    (s.setReg .rpc v).reg .rpc = v

/-- R74: the advance adds 5 to `RPC` modulo 65536 and changes nothing else. -/
def Obligations.AdvanceAddsFiveModulo : Prop :=
  ∀ s : State, (s.advance.reg .rpc).toNat = ((s.reg .rpc).toNat + 5) % 65536 ∧
    regsSameBut [.rpc] s s.advance ∧ memSame s s.advance ∧ surroundSame s s.advance ∧ s.advance.run = s.run

/-! ### What each instruction does when it completes, with its frame -/

/-- R85, whole: the encoding, the effect, and the two faults, each entered as R137 says (that a fault reports `RPC` is
the spec's decision D11, log entry 8). -/
def Obligations.SetWritesItsLiteral : Prop :=
  ∀ (s : State) (op1 op2 : HalfWord),
    decodeWord (mkWord 0x03 op1 op2) = .ok (.set op1 op2) ∧
    (∀ r, s.cfg.resolve op1 = some r → writable r →
      ∃ t, exec (.set op1 op2) s = .next t ∧ t.reg r = op2 ∧ onlyReg r s t) ∧
    (∀ r, s.cfg.resolve op1 = some r → ¬ writable r →
      ∃ t, exec (.set op1 op2) s = .next t ∧ faultedWith (.readOnlyRegisterViolation r) s t) ∧
    (s.cfg.resolve op1 = none →
      ∃ t, exec (.set op1 op2) s = .next t ∧ faultedWith (.unknownRegister op1) s t)

/-- R86: the destination (operand2) gets the source's (operand1's) value; `MOV RPC Rn` gives the `MOV`'s own address
(R19, decision D7). -/
def Obligations.MovCopiesFirstIntoSecond : Prop :=
  ∀ (s : State) (op1 op2 : HalfWord) (q r : RegName),
    s.cfg.resolve op1 = some q → s.cfg.resolve op2 = some r → writable r →
    ∃ t, exec (.mov op1 op2) s = .next t ∧ t.reg r = s.reg q ∧ onlyReg r s t

/-- R90: the byte at the address, zero-extended; never out of bounds (`RPC` read as an operand is the instruction's own
address: decision D7, log entry 8). -/
def Obligations.LoadZeroExtendsTheByte : Prop :=
  ∀ (s : State) (op1 op2 : HalfWord) (q r : RegName),
    s.cfg.resolve op1 = some q → s.cfg.resolve op2 = some r → writable r →
    ∃ t, exec (.load op1 op2) s = .next t ∧ (t.reg r).toNat = (s.byte (s.reg q).toNat).toNat ∧ onlyReg r s t

/-- R91: the low byte of the value register at the address of operand2, no other byte; never out of bounds (`RPC` read
as an operand is the instruction's own address: decision D7, log entry 8). -/
def Obligations.StoreWritesTheLowByte : Prop :=
  ∀ (s : State) (op1 op2 : HalfWord) (q r : RegName),
    s.cfg.resolve op1 = some q → s.cfg.resolve op2 = some r →
    ∃ t, exec (.store op1 op2) s = .next t ∧
      (t.byte (s.reg r).toNat).toNat = (s.reg q).toNat % 256 ∧ onlyBytes (s.reg r).toNat 1 s t

/-- R92: below address 65535 the half-word, high byte at the address; at 65535 `OutOfBoundsAddress(65536)` with nothing
changed, whatever operand2 is (the missing wrap, the order of R139 and the reported address are decisions D8, D10 and
D11, log entry 8). -/
def Obligations.LoadhReadsTwoBytesHighFirst : Prop :=
  ∀ (s : State) (op1 op2 : HalfWord) (q : RegName), s.cfg.resolve op1 = some q →
    (∀ r, s.cfg.resolve op2 = some r → writable r → (s.reg q).toNat < 65535 →
      ∃ t, exec (.loadh op1 op2) s = .next t ∧
        (t.reg r).toNat =
          (s.byte (s.reg q).toNat).toNat * 256 + (s.byte ((s.reg q).toNat + 1)).toNat ∧ onlyReg r s t) ∧
    ((s.reg q).toNat = 65535 →
      ∃ t, exec (.loadh op1 op2) s = .next t ∧ faultedWith (.outOfBoundsAddress 65536) s t)

/-- R93: below address 65535 the high byte at the address and the low byte after it, no other byte; at 65535 the high
byte is written, then `OutOfBoundsAddress(65536)`, `RPC` not advanced (the missing wrap, the partial effect and the
reported address are decisions D8, D9 and D11, log entry 8). -/
def Obligations.StorehWritesTwoBytesHighFirst : Prop :=
  ∀ (s : State) (op1 op2 : HalfWord) (q r : RegName),
    s.cfg.resolve op1 = some q → s.cfg.resolve op2 = some r →
    ((s.reg r).toNat < 65535 →
      ∃ t, exec (.storeh op1 op2) s = .next t ∧
        (t.byte (s.reg r).toNat).toNat = (s.reg q).toNat / 256 ∧
        (t.byte ((s.reg r).toNat + 1)).toNat = (s.reg q).toNat % 256 ∧ onlyBytes (s.reg r).toNat 2 s t) ∧
    ((s.reg r).toNat = 65535 →
      ∃ t, exec (.storeh op1 op2) s = .next t ∧
        t.run = .faulted (.outOfBoundsAddress 65536) (s.reg .rpc) ∧
        (t.byte 65535).toNat = (s.reg q).toNat / 256 ∧
        memSameBut 65535 1 s t ∧ regsSameBut [] s t ∧ surroundSame s t)

/-- R100: the sum modulo 65536 in operand1's register, from the values before the write (`RPC` read as operand2 is the
instruction's own address: decision D7, log entry 8). -/
def Obligations.AddWrapsModulo : Prop :=
  ∀ (s : State) (op1 op2 : HalfWord) (r q : RegName),
    s.cfg.resolve op1 = some r → s.cfg.resolve op2 = some q → writable r →
    ∃ t, exec (.add op1 op2) s = .next t ∧
      (t.reg r).toNat = ((s.reg r).toNat + (s.reg q).toNat) % 65536 ∧ onlyReg r s t

/-- R101: the difference modulo 65536 in operand1's register, in the rule's own equivalent form (`RPC` read as operand2
is the instruction's own address: decision D7, log entry 8). -/
def Obligations.SubWrapsModulo : Prop :=
  ∀ (s : State) (op1 op2 : HalfWord) (r q : RegName),
    s.cfg.resolve op1 = some r → s.cfg.resolve op2 = some q → writable r →
    ∃ t, exec (.sub op1 op2) s = .next t ∧
      (t.reg r).toNat = ((s.reg r).toNat + 65536 - (s.reg q).toNat) % 65536 ∧ onlyReg r s t

/-- R105, R108: taken iff all 16 bits of operand2's register are zero; then `RPC` is operand1's register, with no
advance and nothing else changed; otherwise nothing changes at all (R106; that a jump not taken does not advance is
the spec's decision D15, log entry 8). -/
def Obligations.CjumpJumpsIffZero : Prop :=
  ∀ (s : State) (op1 op2 : HalfWord) (q r : RegName),
    s.cfg.resolve op1 = some q → s.cfg.resolve op2 = some r →
    ((s.reg r).toNat = 0 →
      ∃ t, exec (.cjump op1 op2) s = .next t ∧ t.reg .rpc = s.reg q ∧ regsSameBut [.rpc] s t ∧ memSame s t ∧
        surroundSame s t ∧ t.run = s.run) ∧
    ((s.reg r).toNat ≠ 0 → exec (.cjump op1 op2) s = .next s)

/-- R35, R92, R93: a half-word stored by `STOREH` is what `LOADH` from the same address gives. -/
def Obligations.LoadhReturnsWhatStorehStored : Prop :=
  ∀ (s : State) (vOp aOp dOp : HalfWord) (v a d : RegName),
    s.cfg.resolve vOp = some v → s.cfg.resolve aOp = some a → s.cfg.resolve dOp = some d → writable d →
    a ≠ .rpc → (s.reg a).toNat < 65535 →
    ∃ t u, exec (.storeh vOp aOp) s = .next t ∧ exec (.loadh aOp dOp) t = .next u ∧ u.reg d = s.reg v

/-! ### Faults of operands -/

/-- R57, R134, R139: the first register operand (in the order of R139) that is no register code is the fault reported,
and nothing else changes; a `LOADH` whose address is 65535 faults on its memory read first. (The order inside one
instruction and the reported address are the spec's decisions D10 and D11, log entry 8.) -/
def Obligations.FirstUnknownRegisterFaults : Prop :=
  ∀ (i : Instr) (s : State) (c : HalfWord),
    i.registerOperands.find? (fun o => (s.cfg.resolve o).isNone) = some c →
    (∀ a b q, i = .loadh a b → s.cfg.resolve a = some q → (s.reg q).toNat ≠ 65535) →
    ∃ t, exec i s = .next t ∧ faultedWith (.unknownRegister c) s t

/-- R58, R135: the operand in a write position (operand1 of `SET`, `ADD`, `SUB`; operand2 of `MOV`, `LOAD`, `LOADH`)
that resolves to `RPC` or `RSP` raises the read-only violation, with nothing changed, when the instruction's earlier
checks pass (their order and the reported address are the spec's decisions D10 and D11, log entry 8). -/
def Obligations.ReadOnlyDestinationFaults : Prop :=
  ∀ (i : Instr) (s : State) (c : HalfWord) (r : RegName),
    i.writeOperand = some c → s.cfg.resolve c = some r → ¬ writable r →
    (∀ o ∈ i.registerOperands, s.cfg.resolve o ≠ none) →
    (∀ a b q, i = .loadh a b → s.cfg.resolve a = some q → (s.reg q).toNat ≠ 65535) →
    ∃ t, exec i s = .next t ∧ faultedWith (.readOnlyRegisterViolation r) s t

/-- R57, R58, R136, R138: a legal instruction faults only as a `LOADH` or a `STOREH` whose address register (operand1's
of `LOADH`, operand2's of `STOREH`) holds 65535 (the spec's own derivation; the missing wrap and the reported address
are decisions D8 and D11, log entry 8). -/
def Obligations.WellFormedFaultsOnlyOutOfBounds : Prop :=
  ∀ (i : Instr) (s t : State), i.wellFormed s.cfg = true → s.run = .running → exec i s = .next t →
    t.run = .running ∨
    (t.run = .faulted (.outOfBoundsAddress 65536) (s.reg .rpc) ∧
      ∃ a b q, (i = .loadh a b ∧ s.cfg.resolve a = some q ∨ i = .storeh a b ∧ s.cfg.resolve b = some q) ∧
        (s.reg q).toNat = 65535)

/-- R138: an instruction's fault leaves every register and every byte as it was, but for cell 65535 after `STOREH`
(the enumeration is the spec's derivation; the partial effect and the reported address are its decisions D9 and D11,
log entry 8). -/
def Obligations.FaultLeavesNoPartialEffectButStoreh : Prop :=
  ∀ (i : Instr) (s t : State) (e : Cause) (a : HalfWord), s.run = .running → exec i s = .next t →
    t.run = .faulted e a →
    a = s.reg .rpc ∧ regsSameBut [] s t ∧ surroundSame s t ∧
    (memSame s t ∨ (e = .outOfBoundsAddress 65536 ∧ (∃ x y, i = .storeh x y) ∧ memSameBut 65535 1 s t))

/-! ### Frames over every form, the faulting ones included -/

/-- R17 (which the spec derives from R14, R15 and the instruction rules): `SET`, `MOV`, `LOAD`, `LOADH`, `ADD`, `SUB`
change no byte of memory and no register but the destination operand's and `RPC`; where the destination is no register,
no register at all. -/
def Obligations.RegisterWritersFrame : Prop :=
  ∀ (i : Instr) (s t : State) (c : HalfWord), i.writeOperand = some c → exec i s = .next t →
    memSame s t ∧ surroundSame s t ∧
    (∀ r, s.cfg.resolve c = some r → regsSameBut [r, .rpc] s t) ∧
    (s.cfg.resolve c = none → regsSameBut [] s t)

/-- R17, R91, R93: `STORE` and `STOREH` change no register but `RPC` and no byte outside the one or two at the value of
operand2's register; where operand2 is no register, no byte at all. -/
def Obligations.StoresFrame : Prop :=
  ∀ (i : Instr) (op1 op2 : HalfWord) (n : Nat) (s t : State),
    (i = .store op1 op2 ∧ n = 1 ∨ i = .storeh op1 op2 ∧ n = 2) → exec i s = .next t →
    regsSameBut [.rpc] s t ∧ surroundSame s t ∧
    (∀ addr, s.regGet op2 = .ok addr → memSameBut addr.toNat n s t) ∧
    (∀ e, s.regGet op2 = .error e → memSame s t)

/-- R17, R105: `CJUMP` changes no register but `RPC` and no byte of memory. -/
def Obligations.CjumpFrame : Prop :=
  ∀ (op1 op2 : HalfWord) (s t : State), exec (.cjump op1 op2) s = .next t →
    regsSameBut [.rpc] s t ∧ memSame s t ∧ surroundSame s t

/-- R20: how each instruction leaves `RPC`: the eight advance it, `CJUMP` sets it to operand1's register or leaves it,
and a faulting instruction leaves it. (That a `CJUMP` not taken does not advance is the spec's decision D15, that a
faulting instruction does not is D7; log entry 8.) -/
def Obligations.EachInstructionLeavesRpcAsRuled : Prop :=
  ∀ (i : Instr) (s t : State), s.run = .running → exec i s = .next t →
    (t.run ≠ .running → t.reg .rpc = s.reg .rpc) ∧
    (t.run = .running → (∀ a b, i ≠ .cjump a b) → advanced s t) ∧
    (t.run = .running → ∀ a b, i = .cjump a b →
      ∃ target c, s.regGet a = .ok target ∧ s.regGet b = .ok c ∧
        t.reg .rpc = if c = 0 then target else s.reg .rpc)

/-! ### The cycle -/

/-- R70, R80: when the bytes at `RPC` decode to an instruction, a step is that instruction's effect, then (unless it
faulted) the device step and the halt check. -/
def Obligations.StepRunsTheDecodedInstruction : Prop :=
  ∀ (s : State) (i : Instr), s.run = .running → s.reg .rpc ≠ s.reg .rsp → (s.reg .rpc).toNat ≤ 65531 →
    decode [s.byte (s.reg .rpc).toNat, s.byte ((s.reg .rpc).toNat + 1), s.byte ((s.reg .rpc).toNat + 2),
      s.byte ((s.reg .rpc).toNat + 3), s.byte ((s.reg .rpc).toNat + 4)] = .ok i →
    ∃ t, exec i s = .next t ∧
      (t.run ≠ .running → step s = .next t) ∧
      (t.run = .running → step s = .next (haltCheck (deviceStep (s.reg .rpc) t)))

/-- R71, R72, R139: a fetch with `RPC > 65531` faults with index 65536, whatever the bytes are (the missing wrap
and the reported address are decisions D8 and D11, log entry 8). -/
def Obligations.FetchPastTheTopFaults : Prop :=
  ∀ s : State, s.run = .running → s.reg .rpc ≠ s.reg .rsp → 65531 < (s.reg .rpc).toNat →
    ∃ t, step s = .next t ∧ faultedWith (.outOfBoundsAddress 65536) s t

/-- R78, R163: a run with `RPC == RSP` at the boundary halts, and nothing else changes: no instruction, no device step.
The empty image is such a run, under every configuration. (That the test is made at every cycle boundary is the spec's
decision D20, log entry 8.) -/
def Obligations.BoundaryHaltExecutesNothing : Prop :=
  (∀ s : State, s.run = .running → s.reg .rpc = s.reg .rsp →
    ∃ t, step s = .next t ∧ t.run = .halted ∧ regsSameBut [] s t ∧ memSame s t ∧ surroundSame s t) ∧
  (∀ (cfg : Config) (en : Bool), (State.load cfg en []).run = .running ∧
    (State.load cfg en []).reg .rpc = 0 ∧ (State.load cfg en []).reg .rsp = 0 ∧ (State.load cfg en []).trace = [])

/-- R77, R78: a step of a running machine that does not fault ends halted iff `RPC` equals `RSP` after it, and running
otherwise. (It covers the test before the first cycle too, which is the spec's decision D20, log entry 8.) -/
def Obligations.HaltsExactlyAtTheSentinel : Prop :=
  ∀ s t : State, s.run = .running → step s = .next t → (∀ e a, t.run ≠ .faulted e a) →
    (t.run = .halted ↔ t.reg .rpc = t.reg .rsp) ∧ (t.run = .halted ∨ t.run = .running)

/-- R79: a halted run stays exactly as it is, for any number of steps. (That the step answers the halted state itself
is the model's form, log entry 1.) -/
def Obligations.HaltedRunStaysAsItIs : Prop :=
  ∀ (k : Nat) (s : State), s.run = .halted → runSteps k s = .next s

/-- R80, R141, R160: a faulted run and a failed load perform no cycle. (That the step then answers the host's fault is
the model's form, log entry 1.) -/
def Obligations.FaultedRunPerformsNoCycle : Prop :=
  ∀ (s : State) (k : Nat),
    (∀ e a, s.run = .faulted e a → runSteps (k + 1) s = .fault (.runFaulted e a)) ∧
    (∀ e, s.run = .loadFailed e → runSteps (k + 1) s = .fault (.loadFailed e))

/-- R149 (the spec's own derivation): every running or halted state has a next state; only an aborted run has none, and
nothing is refused. (That a halted state answers itself and an aborted one a fault is the model's form, log
entry 1.) -/
def Obligations.EveryUnendedStateHasANextState : Prop :=
  ∀ s : State,
    ((s.run = .running ∨ s.run = .halted) → ∃ t, step s = .next t) ∧
    (∀ f, step s = .fault f ↔
      ((∃ e a, s.run = .faulted e a ∧ f = .runFaulted e a) ∨ (∃ e, s.run = .loadFailed e ∧ f = .loadFailed e))) ∧
    (∀ r, step s ≠ .refused r)

/-- R137: the address a fault reports is the value `RPC` had at the start of the cycle, for instruction faults and
device faults alike (decision D11, log entry 8). -/
def Obligations.FaultReportsTheCyclesAddress : Prop :=
  ∀ (s t : State) (e : Cause) (a : HalfWord), s.run = .running → step s = .next t → t.run = .faulted e a →
    a = s.reg .rpc

/-! ### The device bus adapter -/

/-- R110, R112: with `ENABLE_DEVICE` false, or an idle byte at the device bus address, the device step does nothing. -/
def Obligations.DeviceStepIsSkippedOrIdle : Prop :=
  ∀ (a : HalfWord) (s : State),
    (s.enableDevice = false ∨ s.cfg.devop (s.byte s.cfg.deviceBusAddr.toNat) = .idle) → deviceStep a s = s

/-- R113, R114, R115: `BUFFER` emits one `setPixel` with the three big-endian payload half-words, the colour fields
scaled to 0..255 as exact rationals (field places, scale, and that no cell is cleared are decisions D12, D13 and D17,
log entry 9). -/
def Obligations.BufferEmitsSetPixel : Prop :=
  ∀ (a : HalfWord) (s : State), s.enableDevice = true → s.cfg.busWf →
    s.cfg.devop (s.byte s.cfg.deviceBusAddr.toNat) = .buffer →
    ∃ (x y : HalfWord) (c : Nat),
      x.toNat = (s.byte (s.cfg.deviceBusAddr.toNat + 1)).toNat * 256 +
        (s.byte (s.cfg.deviceBusAddr.toNat + 2)).toNat ∧
      y.toNat = (s.byte (s.cfg.deviceBusAddr.toNat + 3)).toNat * 256 +
        (s.byte (s.cfg.deviceBusAddr.toNat + 4)).toNat ∧
      c = (s.byte (s.cfg.deviceBusAddr.toNat + 5)).toNat * 256 +
        (s.byte (s.cfg.deviceBusAddr.toNat + 6)).toNat ∧
      deviceStep a s = s.emit (.setPixel x y (((c / 2048 : Nat) : Rat) * 255 / 31)
        (((c / 32 % 64 : Nat) : Rat) * 255 / 63) (((c % 32 : Nat) : Rat) * 255 / 31))

/-- R113, R123, R136: where the seven cells do not lie in memory (`DEVICE_BUS_ADDR` above 65529, an ill-formed
configuration), a `BUFFER` byte on the bus faults the run with `OutOfBoundsAddress(65536)` after the instruction has
completed: its effects stand and nothing is emitted (T-DV14; the missing wrap and the reported address are decisions
D8 and D11, log entry 8). -/
def Obligations.BufferPastTheTopFaultsAfterTheInstruction : Prop :=
  ∀ (s t : State) (i : Instr), s.run = .running → s.reg .rpc ≠ s.reg .rsp → s.nextInstr = some i →
    exec i s = .next t → t.run = .running → t.enableDevice = true → 65529 < t.cfg.deviceBusAddr.toNat →
    t.cfg.devop (t.byte t.cfg.deviceBusAddr.toNat) = .buffer →
    ∃ u, step s = .next u ∧ u.run = .faulted (.outOfBoundsAddress 65536) (s.reg .rpc) ∧
      regsSameBut [] t u ∧ memSame t u ∧ surroundSame t u

/-- R116, R117: `DRAW` emits `draw()` and `CLEAR` emits `clear()`, no payload being read (so wherever the
bus lies), and write nothing (that the command byte is not cleared is the spec's decision D17, log entry 9). -/
def Obligations.DrawAndClearEmitTheirCommand : Prop :=
  ∀ (a : HalfWord) (s : State), s.enableDevice = true →
    (s.cfg.devop (s.byte s.cfg.deviceBusAddr.toNat) = .draw → deviceStep a s = s.emit .draw) ∧
    (s.cfg.devop (s.byte s.cfg.deviceBusAddr.toNat) = .clear → deviceStep a s = s.emit .clear)

/-- R118: an unknown byte at the device bus address faults the run after the instruction has completed: its effects,
its advance included, stand (R137; that the fault reports the address of that instruction is the spec's decision D11,
log entry 8). -/
def Obligations.UnknownDeviceByteFaultsAfterTheInstruction : Prop :=
  ∀ (s t : State) (i : Instr), s.run = .running → s.reg .rpc ≠ s.reg .rsp → s.nextInstr = some i →
    exec i s = .next t → t.run = .running → t.enableDevice = true →
    t.cfg.devop (t.byte t.cfg.deviceBusAddr.toNat) = .unknown →
    ∃ u, step s = .next u ∧
      u.run = .faulted (.unknownOpcodeDevice (t.byte t.cfg.deviceBusAddr.toNat)) (s.reg .rpc) ∧
      regsSameBut [] t u ∧ memSame t u ∧ surroundSame t u

/-- R119: the device step writes no register and no memory cell, and what it emits or raises is a function of the
seven cells at the device bus address alone (decision D17 for the clearing it does not do). -/
def Obligations.DeviceStepOnlyReadsSevenCells : Prop :=
  (∀ (a : HalfWord) (s : State), regsSameBut [] s (deviceStep a s) ∧ memSame s (deviceStep a s) ∧
    (deviceStep a s).cfg = s.cfg ∧ (deviceStep a s).enableDevice = s.enableDevice) ∧
  (∀ (a : HalfWord) (s u : State), s.cfg = u.cfg → s.enableDevice = u.enableDevice → s.cfg.busWf →
    s.run = .running → u.run = .running →
    (∀ j, j < 7 → s.byte (s.cfg.deviceBusAddr.toNat + j) = u.byte (s.cfg.deviceBusAddr.toNat + j)) →
    (deviceStep a s).run = (deviceStep a u).run ∧
    ∃ cs, (deviceStep a s).trace = s.trace ++ cs ∧ (deviceStep a u).trace = u.trace ++ cs)

/-- R29, R110, R121 (that a cycle emits at most one command is read off the pseudocode of R110): a step appends at most
one command to the trace, and none with `ENABLE_DEVICE` false. -/
def Obligations.TraceGrowsByAtMostOneCommand : Prop :=
  ∀ s t : State, step s = .next t →
    t.trace = s.trace ∨ (s.enableDevice = true ∧ ∃ c, t.trace = s.trace ++ [c])

/-- R122 (the spec derives it from R110 and R119): with `ENABLE_DEVICE` false the registers, memory and run state of a
run are, step for step, those of the run with the adapter enabled, as long as that one meets no device fault. (That the
adapter writes no cell is decision D17, log entry 9.) -/
def Obligations.DisabledDeviceRunsTheSame : Prop :=
  ∀ (k : Nat) (s t : State), s.cfg.busWf → runSteps k s = .next t →
    (∀ d a, t.run ≠ .faulted (.unknownOpcodeDevice d) a) →
    runSteps k s.withoutDevice = .next t.withoutDevice

/-! ### The jump that never ends -/

/-- R106, R124: a `CJUMP` whose condition register is non-zero repeats for ever: after any number of steps the state is
the same, but for the commands standing on the device bus, re-emitted once a step. (That a jump not taken does not
advance is the spec's decision D15, log entry 8; that the adapter does not clear the command byte, so that it is
emitted again, is D17, log entry 9.) -/
def Obligations.NonTakenJumpRepeatsForEver : Prop :=
  ∀ (n : Nat) (s : State) (op1 op2 : HalfWord) (q r : RegName) (cs : List Command),
    s.run = .running → s.reg .rpc ≠ s.reg .rsp → s.nextInstr = some (.cjump op1 op2) →
    s.cfg.resolve op1 = some q → s.cfg.resolve op2 = some r → (s.reg r).toNat ≠ 0 →
    deviceStep (s.reg .rpc) s = { s with trace := s.trace ++ cs } →
    runSteps n s = .next { s with trace := s.trace ++ (List.replicate n cs).flatten }

/-! ### Whole-machine rules and invariants -/

/-- R16, R24, R28: `RSP`, `ENABLE_DEVICE` and the configuration are constant for the rest of any run. -/
def Obligations.SentinelAndConfigurationAreConstant : Prop :=
  ∀ (k : Nat) (s t : State), runSteps k s = .next t →
    t.reg .rsp = s.reg .rsp ∧ t.enableDevice = s.enableDevice ∧ t.cfg = s.cfg

/-- R17, R40, R43 and the summary of 10_state.md: in a step only the fetched instruction writes: a byte of memory
changes only by a `STORE` or `STOREH` that addresses it, a general register only as its destination operand. (That
the adapter writes no cell is decision D17, log entry 9.) -/
def Obligations.OnlyTheFetchedInstructionWrites : Prop :=
  ∀ s t : State, step s = .next t →
    (∀ a, t.byte a ≠ s.byte a →
      ∃ op1 op2 addr, s.regGet op2 = .ok addr ∧
        ((s.nextInstr = some (.store op1 op2) ∧ a = addr.toNat) ∨
         (s.nextInstr = some (.storeh op1 op2) ∧ addr.toNat ≤ a ∧ a < addr.toNat + 2))) ∧
    (∀ r, r ≠ .rpc → t.reg r ≠ s.reg r →
      ∃ i c, s.nextInstr = some i ∧ i.writeOperand = some c ∧ s.cfg.resolve c = some r)

/-- Every step keeps the invariant: canonical memory, and a run state that says what is so (R26, R27, R77, R130). -/
def Obligations.StepKeepsTheInvariant : Prop :=
  ∀ s t : State, s.Inv → step s = .next t → t.Inv

/-- The reset state has the invariant. -/
def Obligations.ResetHasTheInvariant : Prop := State.reset.Inv

/-- Every reset has the invariant, whatever the image and the configuration, a refused image included (R155). -/
def Obligations.EveryLoadHasTheInvariant : Prop :=
  ∀ (cfg : Config) (en : Bool) (image : List Token), (State.load cfg en image).Inv

/-- Two canonical memories that read the same everywhere are the same list (the form of the model's memory over the
one array of R26). -/
def Obligations.CanonicalMemoryIsUnique : Prop :=
  ∀ m n : Memory, m.wf → n.wf → (∀ a, m.byteAt a = n.byteAt a) → m = n

/-! ### Reset and program load -/

/-- R155 to R159, R162, R163: a well-formed image of at most 65536 tokens fills the cells from 0, every other cell is
zero, `RPC` is 0, `RSP` the token count modulo 65536, the general registers `GPR_RESET`, the run running, the trace
empty. -/
def Obligations.LoadFillsMemoryAndSetsRsp : Prop :=
  ∀ (cfg : Config) (en : Bool) (image : List Token), (∀ t ∈ image, wellFormedByte t = true) →
    image.length ≤ 65536 →
    let s := State.load cfg en image
    (∀ k t, image[k]? = some t → s.byte k = tokenValue t) ∧
    (∀ k, image.length ≤ k → s.byte k = 0) ∧
    s.reg .rpc = 0 ∧ (s.reg .rsp).toNat = image.length % 65536 ∧
    (∀ r, writable r → s.reg r = cfg.gprReset) ∧
    s.run = .running ∧ s.trace = [] ∧ s.enableDevice = en ∧ s.cfg = cfg

/-- R131, R160: the first malformed token aborts the load, and no cycle runs. (That the step then answers the host's
fault is the model's form, log entry 1.) -/
def Obligations.MalformedTokenAbortsTheLoad : Prop :=
  ∀ (cfg : Config) (en : Bool) (before : List Token) (t : Token) (rest : List Token),
    (∀ u ∈ before, wellFormedByte u = true) → before.length ≤ 65536 → wellFormedByte t = false →
    (State.load cfg en (before ++ t :: rest)).run = .loadFailed (.malformedEncoding t) ∧
    (State.load cfg en (before ++ t :: rest)).trace = [] ∧
    step (State.load cfg en (before ++ t :: rest)) = .fault (.loadFailed (.malformedEncoding t))

/-- R155, R161: an image of more than 65536 tokens cannot be loaded: where none of the first 65537 is malformed the
load fails at token 65536, whatever follows it, and no cycle runs (decision D18, log entry 8; that the step then
answers the host's fault is the model's form, log entry 1). A malformed token among the first 65537 is
`MalformedTokenAbortsTheLoad`'s. -/
def Obligations.TooLongImageIsRefused : Prop :=
  ∀ (cfg : Config) (en : Bool) (image : List Token), (∀ t ∈ image.take 65537, wellFormedByte t = true) →
    65536 < image.length →
    (State.load cfg en image).run = .loadFailed (.outOfBoundsAddress 65536) ∧
    step (State.load cfg en image) = .fault (.loadFailed (.outOfBoundsAddress 65536))

/-- R44, R158 and log entry 10: an instruction's word placed at `RPC` is what the next step fetches, decodes and
runs. -/
def Obligations.PlacedWordRunsNext : Prop :=
  ∀ (s : State) (i : Instr), (s.reg .rpc).toNat ≤ 65531 →
    (s.withFetchWord 40 (encodeWord i).toNat).nextInstr = some i ∧
    ∃ t, exec i (s.withFetchWord 40 (encodeWord i).toNat) = .next t ∧
      step (s.withFetchWord 40 (encodeWord i).toNat) = .next (afterInstr (s.reg .rpc) t)
end

