-- ==== Sys2Proof/Laws/Codec.lean ====
section
/-! SUPPORT. The codec's values as numbers, and the fields of an instruction word. -/

namespace Sys2Proof

@[simp] theorem toNat_decToByte (n : Nat) : (decToByte n).toNat = n % 256 := by simp [decToByte]

@[simp] theorem toNat_decToHalfWord (n : Nat) : (decToHalfWord n).toNat = n % 65536 := by simp [decToHalfWord]

@[simp] theorem toNat_hw (h l : Byte) : (hw h l).toNat = h.toNat * 256 + l.toNat := by
  have := l.isLt
  rw [hw, BitVec.toNat_append, ← Nat.shiftLeft_add_eq_or_of_lt this, Nat.shiftLeft_eq]

@[simp] theorem toNat_hi (v : HalfWord) : (hi v).toNat = v.toNat / 256 := by
  have := v.isLt
  simp [hi, BitVec.extractLsb'_toNat, Nat.shiftRight_eq_div_pow]; omega

@[simp] theorem toNat_lo (v : HalfWord) : (lo v).toNat = v.toNat % 256 := by
  simp [lo, BitVec.extractLsb'_toNat]

@[simp] theorem toNat_zext16 (b : Byte) : (zext16 b).toNat = b.toNat := by simp [zext16]

@[simp] theorem hi_hw (h l : Byte) : hi (hw h l) = h := by
  have := l.isLt
  apply BitVec.eq_of_toNat_eq; simp; omega

@[simp] theorem lo_hw (h l : Byte) : lo (hw h l) = l := by
  have := l.isLt
  apply BitVec.eq_of_toNat_eq; simp; omega

/-- The two bytes of a half-word give it back (R2). -/
@[simp] theorem hw_hi_lo (v : HalfWord) : hw (hi v) (lo v) = v := by
  apply BitVec.eq_of_toNat_eq; simp; omega

@[simp] theorem decToByte_toNat (b : Byte) : decToByte b.toNat = b := by simp [decToByte]

@[simp] theorem decToHalfWord_toNat (v : HalfWord) : decToHalfWord v.toNat = v := by simp [decToHalfWord]

@[simp] theorem bytesToNat_one (b : Byte) : bytesToNat [b] = b.toNat := by simp [bytesToNat, byteToDec]

@[simp] theorem bytesToNat_two (h l : Byte) : bytesToNat [h, l] = (hw h l).toNat := by
  simp [bytesToNat, byteToDec]

@[simp] theorem natToBytes_one (v : Nat) : natToBytes 1 v = [decToByte v] := by simp [natToBytes]

@[simp] theorem natToBytes_two (v : HalfWord) : natToBytes 2 v.toNat = [hi v, lo v] := by
  have := v.isLt
  simp only [natToBytes, List.cons.injEq, and_true]
  constructor <;> apply BitVec.eq_of_toNat_eq <;> simp; omega

/-! ### The instruction word -/

theorem toNat_mkWord (o : Byte) (a b : HalfWord) :
    (mkWord o a b).toNat = o.toNat * 2 ^ 32 + a.toNat * 2 ^ 16 + b.toNat := by
  have e1 : (a ++ b).toNat = a.toNat * 65536 + b.toNat := by
    rw [BitVec.toNat_append, ← Nat.shiftLeft_add_eq_or_of_lt b.isLt, Nat.shiftLeft_eq]
  have e2 : (o ++ (a ++ b)).toNat = o.toNat * 4294967296 + (a ++ b).toNat := by
    rw [BitVec.toNat_append, ← Nat.shiftLeft_add_eq_or_of_lt (a ++ b).isLt, Nat.shiftLeft_eq]
  unfold mkWord
  rw [e2, e1]
  omega

theorem toNat_wordOpcode (I : InstrWord) : (wordOpcode I).toNat = I.toNat / 2 ^ 32 := by
  have := I.isLt
  simp only [wordOpcode, BitVec.extractLsb'_toNat, Nat.shiftRight_eq_div_pow]; omega

theorem toNat_wordOp1 (I : InstrWord) : (wordOp1 I).toNat = I.toNat / 2 ^ 16 % 65536 := by
  simp [wordOp1, BitVec.extractLsb'_toNat, Nat.shiftRight_eq_div_pow]

theorem toNat_wordOp2 (I : InstrWord) : (wordOp2 I).toNat = I.toNat % 65536 := by
  simp [wordOp2, BitVec.extractLsb'_toNat]

@[simp] theorem wordOpcode_mkWord (o : Byte) (a b : HalfWord) : wordOpcode (mkWord o a b) = o := by
  have := a.isLt; have := b.isLt
  apply BitVec.eq_of_toNat_eq; rw [toNat_wordOpcode, toNat_mkWord]; omega

@[simp] theorem wordOp1_mkWord (o : Byte) (a b : HalfWord) : wordOp1 (mkWord o a b) = a := by
  have := a.isLt; have := b.isLt
  apply BitVec.eq_of_toNat_eq; rw [toNat_wordOp1, toNat_mkWord]; omega

@[simp] theorem wordOp2_mkWord (o : Byte) (a b : HalfWord) : wordOp2 (mkWord o a b) = b := by
  have := b.isLt
  apply BitVec.eq_of_toNat_eq; rw [toNat_wordOp2, toNat_mkWord]; omega

/-- The three fields are the whole word. -/
@[simp] theorem mkWord_fields (I : InstrWord) : mkWord (wordOpcode I) (wordOp1 I) (wordOp2 I) = I := by
  have := I.isLt
  apply BitVec.eq_of_toNat_eq
  rw [toNat_mkWord, toNat_wordOpcode, toNat_wordOp1, toNat_wordOp2]; omega

/-- Five bytes assembled big-endian are the word of their opcode byte and their two half-words (R51, R52). -/
theorem ofNat_bytesToNat_five (b0 b1 b2 b3 b4 : Byte) :
    BitVec.ofNat 40 (bytesToNat [b0, b1, b2, b3, b4]) = mkWord b0 (hw b1 b2) (hw b3 b4) := by
  have h0 := b0.isLt; have h1 := b1.isLt; have h2 := b2.isLt; have h3 := b3.isLt; have h4 := b4.isLt
  apply BitVec.eq_of_toNat_eq
  rw [toNat_mkWord, toNat_hw, toNat_hw]
  simp [bytesToNat, byteToDec]
  omega

/-! ### The opcode map -/

/-- `DecodeOpcode` answers a kind only for that kind's byte (R55). -/
theorem opcodeByte_of_decodeOpcode {b : Byte} {k : Kind} (h : decodeOpcode b = some k) : opcodeByte k = b := by
  simpa using List.find?_some h

@[simp] theorem decodeOpcode_opcodeByte (k : Kind) : decodeOpcode (opcodeByte k) = some k := by
  cases k <;> decide

/-- `DecodeOpcode` fails exactly on the bytes outside the table (R55). -/
theorem decodeOpcode_eq_none {b : Byte} : decodeOpcode b = none ↔ ∀ k, opcodeByte k ≠ b := by
  constructor
  · rintro h k rfl; simp at h
  · intro h; exact List.find?_eq_none.2 fun k _ => by simpa using h k

theorem Instr.kind_instr (i : Instr) : i.kind.instr i.op1 i.op2 = i := by cases i <;> rfl

@[simp] theorem Kind.kind_instr (k : Kind) (a b : HalfWord) : (k.instr a b).kind = k := by cases k <;> rfl

@[simp] theorem Kind.op1_instr (k : Kind) (a b : HalfWord) : (k.instr a b).op1 = a := by cases k <;> rfl

@[simp] theorem Kind.op2_instr (k : Kind) (a b : HalfWord) : (k.instr a b).op2 = b := by cases k <;> rfl

end Sys2Proof
end

