-- ==== Sys2Proof/Laws/State.lean ====
section
/-! SUPPORT. One lemma per field per update of State, and the register file's read after write; all true by
computation, so that no later proof unfolds an update. -/

namespace Sys2Proof.Machine

/-! ### The register file -/

theorem RegFile.get_put (f : RegFile) (r q : RegName) (v : HalfWord) :
    (f.put r v).get q = if q = r then v else f.get q := by
  cases r <;> cases q <;> rfl

@[simp] theorem RegFile.get_put_same (f : RegFile) (r : RegName) (v : HalfWord) : (f.put r v).get r = v := by
  cases r <;> rfl

theorem RegFile.get_put_other (f : RegFile) {r q : RegName} (v : HalfWord) (h : q ≠ r) :
    (f.put r v).get q = f.get q := by
  simp [RegFile.get_put, h]

/-- Two register files that agree on every register are equal. -/
theorem RegFile.ext_get {f g : RegFile} (h : ∀ r, f.get r = g.get r) : f = g := by
  have := h .r00; have := h .r01; have := h .r02; have := h .r03; have := h .r04; have := h .r05
  have := h .r06; have := h .r07; have := h .r08; have := h .r09; have := h .rpc; have := h .rsp
  cases f; cases g; simp_all [RegFile.get]

/-! ### One lemma per field per update -/

@[simp] theorem State.setReg_regs (s : State) (r : RegName) (v : HalfWord) : (s.setReg r v).regs = s.regs.put r v := rfl
@[simp] theorem State.setReg_mem (s : State) (r : RegName) (v : HalfWord) : (s.setReg r v).mem = s.mem := rfl
@[simp] theorem State.setReg_run (s : State) (r : RegName) (v : HalfWord) : (s.setReg r v).run = s.run := rfl
@[simp] theorem State.setReg_enableDevice (s : State) (r : RegName) (v : HalfWord) : (s.setReg r v).enableDevice = s.enableDevice := rfl
@[simp] theorem State.setReg_trace (s : State) (r : RegName) (v : HalfWord) : (s.setReg r v).trace = s.trace := rfl
@[simp] theorem State.setReg_cfg (s : State) (r : RegName) (v : HalfWord) : (s.setReg r v).cfg = s.cfg := rfl

@[simp] theorem State.setMem_regs (s : State) (m : Memory) : (s.setMem m).regs = s.regs := rfl
@[simp] theorem State.setMem_mem (s : State) (m : Memory) : (s.setMem m).mem = m := rfl
@[simp] theorem State.setMem_run (s : State) (m : Memory) : (s.setMem m).run = s.run := rfl
@[simp] theorem State.setMem_enableDevice (s : State) (m : Memory) : (s.setMem m).enableDevice = s.enableDevice := rfl
@[simp] theorem State.setMem_trace (s : State) (m : Memory) : (s.setMem m).trace = s.trace := rfl
@[simp] theorem State.setMem_cfg (s : State) (m : Memory) : (s.setMem m).cfg = s.cfg := rfl

@[simp] theorem State.setRun_regs (s : State) (u : RunState) : (s.setRun u).regs = s.regs := rfl
@[simp] theorem State.setRun_mem (s : State) (u : RunState) : (s.setRun u).mem = s.mem := rfl
@[simp] theorem State.setRun_run (s : State) (u : RunState) : (s.setRun u).run = u := rfl
@[simp] theorem State.setRun_enableDevice (s : State) (u : RunState) : (s.setRun u).enableDevice = s.enableDevice := rfl
@[simp] theorem State.setRun_trace (s : State) (u : RunState) : (s.setRun u).trace = s.trace := rfl
@[simp] theorem State.setRun_cfg (s : State) (u : RunState) : (s.setRun u).cfg = s.cfg := rfl

@[simp] theorem State.emit_regs (s : State) (c : Command) : (s.emit c).regs = s.regs := rfl
@[simp] theorem State.emit_mem (s : State) (c : Command) : (s.emit c).mem = s.mem := rfl
@[simp] theorem State.emit_run (s : State) (c : Command) : (s.emit c).run = s.run := rfl
@[simp] theorem State.emit_enableDevice (s : State) (c : Command) : (s.emit c).enableDevice = s.enableDevice := rfl
@[simp] theorem State.emit_trace (s : State) (c : Command) : (s.emit c).trace = s.trace ++ [c] := rfl
@[simp] theorem State.emit_cfg (s : State) (c : Command) : (s.emit c).cfg = s.cfg := rfl

@[simp] theorem State.raiseAt_regs (s : State) (a : HalfWord) (e : Cause) : (s.raiseAt a e).regs = s.regs := rfl
@[simp] theorem State.raiseAt_mem (s : State) (a : HalfWord) (e : Cause) : (s.raiseAt a e).mem = s.mem := rfl
@[simp] theorem State.raiseAt_run (s : State) (a : HalfWord) (e : Cause) : (s.raiseAt a e).run = .faulted e a := rfl
@[simp] theorem State.raiseAt_enableDevice (s : State) (a : HalfWord) (e : Cause) : (s.raiseAt a e).enableDevice = s.enableDevice := rfl
@[simp] theorem State.raiseAt_trace (s : State) (a : HalfWord) (e : Cause) : (s.raiseAt a e).trace = s.trace := rfl
@[simp] theorem State.raiseAt_cfg (s : State) (a : HalfWord) (e : Cause) : (s.raiseAt a e).cfg = s.cfg := rfl

@[simp] theorem State.raise_regs (s : State) (e : Cause) : (s.raise e).regs = s.regs := rfl
@[simp] theorem State.raise_mem (s : State) (e : Cause) : (s.raise e).mem = s.mem := rfl
@[simp] theorem State.raise_run (s : State) (e : Cause) : (s.raise e).run = .faulted e (s.reg .rpc) := rfl
@[simp] theorem State.raise_enableDevice (s : State) (e : Cause) : (s.raise e).enableDevice = s.enableDevice := rfl
@[simp] theorem State.raise_trace (s : State) (e : Cause) : (s.raise e).trace = s.trace := rfl
@[simp] theorem State.raise_cfg (s : State) (e : Cause) : (s.raise e).cfg = s.cfg := rfl

@[simp] theorem State.advance_regs (s : State) : (s.advance).regs = s.regs.put .rpc (decToHalfWord (halfWordToDec (s.reg .rpc) + 5)) := rfl
@[simp] theorem State.advance_mem (s : State) : (s.advance).mem = s.mem := rfl
@[simp] theorem State.advance_run (s : State) : (s.advance).run = s.run := rfl
@[simp] theorem State.advance_enableDevice (s : State) : (s.advance).enableDevice = s.enableDevice := rfl
@[simp] theorem State.advance_trace (s : State) : (s.advance).trace = s.trace := rfl
@[simp] theorem State.advance_cfg (s : State) : (s.advance).cfg = s.cfg := rfl

/-! ### The accessors through the updates -/

@[simp] theorem State.setReg_reg (s : State) (r q : RegName) (v : HalfWord) :
    (s.setReg r v).reg q = if q = r then v else s.reg q := RegFile.get_put s.regs r q v

@[simp] theorem State.setMem_reg (s : State) (m : Memory) (q : RegName) : (s.setMem m).reg q = s.reg q := rfl
@[simp] theorem State.setRun_reg (s : State) (u : RunState) (q : RegName) : (s.setRun u).reg q = s.reg q := rfl
@[simp] theorem State.emit_reg (s : State) (c : Command) (q : RegName) : (s.emit c).reg q = s.reg q := rfl
@[simp] theorem State.raiseAt_reg (s : State) (a : HalfWord) (e : Cause) (q : RegName) : (s.raiseAt a e).reg q = s.reg q := rfl
@[simp] theorem State.raise_reg (s : State) (e : Cause) (q : RegName) : (s.raise e).reg q = s.reg q := rfl

@[simp] theorem State.advance_reg (s : State) (q : RegName) :
    s.advance.reg q = if q = .rpc then decToHalfWord (halfWordToDec (s.reg .rpc) + 5) else s.reg q :=
  RegFile.get_put s.regs .rpc q _

@[simp] theorem State.setReg_byte (s : State) (r : RegName) (v : HalfWord) (x : Nat) : (s.setReg r v).byte x = s.byte x := rfl
@[simp] theorem State.setMem_byte (s : State) (m : Memory) (x : Nat) : (s.setMem m).byte x = m.byteAt x := rfl
@[simp] theorem State.setRun_byte (s : State) (u : RunState) (x : Nat) : (s.setRun u).byte x = s.byte x := rfl
@[simp] theorem State.emit_byte (s : State) (c : Command) (x : Nat) : (s.emit c).byte x = s.byte x := rfl
@[simp] theorem State.raiseAt_byte (s : State) (a : HalfWord) (e : Cause) (x : Nat) : (s.raiseAt a e).byte x = s.byte x := rfl
@[simp] theorem State.raise_byte (s : State) (e : Cause) (x : Nat) : (s.raise e).byte x = s.byte x := rfl
@[simp] theorem State.advance_byte (s : State) (x : Nat) : (s.advance).byte x = s.byte x := rfl

end Sys2Proof.Machine
end

