-- ==== Sys2Proof/Laws/Memory.lean ====
section
/-! SUPPORT. The laws of memory: read after write, what a write leaves alone, that every write keeps the canonical
form, and when a multi-byte access meets an index out of range. -/

namespace Sys2Proof.Machine

/-! ### One cell -/

@[simp] theorem Memory.byteAt_nil (a : Nat) : Memory.byteAt [] a = Memory.unlisted := rfl

theorem Memory.byteAt_cons (c : Host.Cell) (m : Memory) (a : Nat) :
    Memory.byteAt (c :: m) a = if c.1 = a then c.2 else m.byteAt a := rfl

theorem Memory.byteAt_without (m : Memory) (a x : Nat) :
    (m.without a).byteAt x = if x = a then Memory.unlisted else m.byteAt x := by
  induction m with
  | nil => simp [Memory.without]
  | cons c m ih =>
    simp only [Memory.without] at ih
    by_cases hc : c.1 = a
    · by_cases hx : x = a
      · simpa [Memory.without, hc, hx] using ih
      · simp [Memory.without, hc, ih, Memory.byteAt_cons, hx, Ne.symm hx]
    · simp only [Memory.without, List.filter_cons, bne_iff_ne, ne_eq, hc, not_false_eq_true, if_true,
        Memory.byteAt_cons, ih]
      by_cases hx : x = a
      · subst hx; simp [hc]
      · simp [hx]

/-- A cell listed nowhere else reads as placed, every other as before. -/
theorem Memory.byteAt_place (m : Memory) (d : Host.Cell) (x : Nat) (h : ∀ c ∈ m, c.1 ≠ d.1) :
    (m.place d).byteAt x = if x = d.1 then d.2 else m.byteAt x := by
  induction m with
  | nil => simp [Memory.place, Memory.byteAt_cons, eq_comm]
  | cons c m ih =>
    have hc : c.1 ≠ d.1 := h c (by simp)
    have ih := ih fun c' hc' => h c' (by simp [hc'])
    unfold Memory.place
    split
    · simp only [Memory.byteAt_cons]
      by_cases hx : x = d.1
      · simp [hx]
      · simp [hx, Ne.symm hx]
    · simp only [Memory.byteAt_cons, ih]
      by_cases hx : x = d.1
      · subst hx; simp [hc]
      · simp [hx]

theorem Memory.ne_of_mem_without {m : Memory} {a : Nat} {c : Host.Cell} (h : c ∈ m.without a) : c.1 ≠ a := by
  simpa [Memory.without] using (List.mem_filter.1 h).2

/-- Read after write, for every list: the written cell reads as written, every other cell as before. -/
@[simp] theorem Memory.byteAt_setByte (m : Memory) (a x : Nat) (b : Byte) :
    (m.setByte a b).byteAt x = if x = a then b else m.byteAt x := by
  unfold Memory.setByte
  split
  · next h => simp [Memory.byteAt_without, h]
  · rw [Memory.byteAt_place _ (a, b) _ fun c hc => Memory.ne_of_mem_without hc, Memory.byteAt_without]
    by_cases hx : x = a <;> simp [hx]

/-! ### The canonical form -/

theorem Memory.wf_nil : Memory.wf [] := ⟨List.Pairwise.nil, fun _ h => absurd h (List.not_mem_nil)⟩

theorem Memory.wf_without {m : Memory} (h : m.wf) (a : Nat) : (m.without a).wf :=
  ⟨h.1.filter _, fun c hc => h.2 c (List.mem_of_mem_filter hc)⟩

theorem Memory.mem_place {m : Memory} {c d : Host.Cell} : c ∈ m.place d ↔ c = d ∨ c ∈ m := by
  induction m with
  | nil => simp [Memory.place]
  | cons e m ih =>
    unfold Memory.place
    split
    · simp
    · simp [ih, or_left_comm]

theorem Memory.wf_place {m : Memory} {d : Host.Cell} (h : m.wf) (hd : d.2 ≠ Memory.unlisted ∧ d.1 < memSize)
    (hn : ∀ c ∈ m, c.1 ≠ d.1) : (m.place d).wf := by
  refine ⟨?_, fun c hc => ?_⟩
  · have hp := h.1
    clear h hd
    induction m with
    | nil => simp [Memory.place]
    | cons e m ih =>
      have hp' := List.pairwise_cons.1 hp
      unfold Memory.place
      split
      · next hlt =>
        refine List.pairwise_cons.2 ⟨fun c hc => ?_, hp⟩
        rcases List.mem_cons.1 hc with rfl | hc
        · exact hlt
        · exact Nat.lt_trans hlt (hp'.1 c hc)
      · next hlt =>
        refine List.pairwise_cons.2 ⟨fun c hc => ?_, ih (fun c hc => hn c (by simp [hc])) hp'.2⟩
        rcases Memory.mem_place.1 hc with rfl | hc
        · have := hn e (by simp); omega
        · exact hp'.1 c hc
  · rcases Memory.mem_place.1 hc with rfl | hc
    · exact hd
    · exact h.2 c hc

/-- A write inside the address space keeps the canonical form. -/
theorem Memory.wf_setByte {m : Memory} (h : m.wf) {a : Nat} (ha : a < memSize) (b : Byte) : (m.setByte a b).wf := by
  unfold Memory.setByte
  split
  · exact Memory.wf_without h a
  · next hb => exact Memory.wf_place (Memory.wf_without h a) ⟨hb, ha⟩ fun c hc => Memory.ne_of_mem_without hc

/-! ### Sequences of cells -/

/-- A read inside memory gives the cells in ascending order. -/
theorem Memory.readBytes_ok (m : Memory) (n a : Nat) (h : n = 0 ∨ a + n ≤ memSize) :
    m.readBytes a n = .ok ((List.range' a n).map m.byteAt) := by
  induction n generalizing a with
  | zero => rfl
  | succ n ih =>
    have ha : a < memSize := by omega
    unfold Memory.readBytes
    rw [if_pos ha, ih (a + 1) (by omega), List.range'_succ, List.map_cons]

/-- A read that leaves memory reports the first index out of range: 65536, when it starts inside. -/
theorem Memory.readBytes_error (m : Memory) (n a : Nat) (ha : a ≤ memSize) (h : memSize < a + n) :
    m.readBytes a n = .error (.outOfBoundsAddress memSize) := by
  induction n generalizing a with
  | zero => omega
  | succ n ih =>
    unfold Memory.readBytes
    by_cases hlt : a < memSize
    · rw [if_pos hlt, ih (a + 1) (by omega) (by omega)]
    · rw [if_neg hlt, show a = memSize by omega]

/-- `MemRead` inside memory (R33). -/
theorem Memory.read_ok (m : Memory) (a n : Nat) (h : n = 0 ∨ a + n ≤ memSize) :
    m.read a n = .ok (bytesToNat ((List.range' a n).map m.byteAt)) := by
  simp [Memory.read, Memory.readBytes_ok m n a h]

/-- `MemRead` that leaves memory (R33). -/
theorem Memory.read_error (m : Memory) (a n : Nat) (ha : a ≤ memSize) (h : memSize < a + n) :
    m.read a n = .error (.outOfBoundsAddress memSize) := by
  simp [Memory.read, Memory.readBytes_error m n a ha h]

/-- Everything a read that starts inside memory can answer. -/
theorem Memory.read_cases (m : Memory) (a n : Nat) (ha : a ≤ memSize) :
    (a + n ≤ memSize ∧ m.read a n = .ok (bytesToNat ((List.range' a n).map m.byteAt))) ∨
    (memSize < a + n ∧ m.read a n = .error (.outOfBoundsAddress memSize)) := by
  rcases Nat.lt_or_ge memSize (a + n) with h | h
  · exact .inr ⟨h, m.read_error a n ha h⟩
  · exact .inl ⟨h, m.read_ok a n (.inr h)⟩

/-- A write leaves every cell outside its bytes alone, whether or not it meets an index out of range. -/
theorem Memory.byteAt_writeBytes_outside (m : Memory) (bs : List Byte) (a x : Nat)
    (h : x < a ∨ a + bs.length ≤ x) : (m.writeBytes a bs).1.byteAt x = m.byteAt x := by
  induction bs generalizing m a with
  | nil => rfl
  | cons b bs ih =>
    unfold Memory.writeBytes
    simp only [List.length_cons] at h
    split
    · rw [ih _ _ (by omega), Memory.byteAt_setByte, if_neg (by omega)]
    · rfl

/-- The bytes of a write inside memory read as written. -/
theorem Memory.byteAt_writeBytes_inside (m : Memory) (bs : List Byte) (a i : Nat) (h : a + bs.length ≤ memSize)
    (hi : i < bs.length) : (m.writeBytes a bs).1.byteAt (a + i) = bs[i] := by
  induction bs generalizing m a i with
  | nil => simp at hi
  | cons b bs ih =>
    simp only [List.length_cons] at h hi
    unfold Memory.writeBytes
    rw [if_pos (by omega)]
    cases i with
    | zero => rw [Memory.byteAt_writeBytes_outside _ _ _ _ (by omega)]; simp
    | succ i =>
      have := ih (m.setByte a b) (a + 1) i (by omega) (by omega)
      simpa [Nat.add_assoc, Nat.add_comm 1 i] using this

/-- A write inside memory meets no fault. -/
theorem Memory.writeBytes_ok (m : Memory) (bs : List Byte) (a : Nat) (h : a + bs.length ≤ memSize) :
    (m.writeBytes a bs).2 = none := by
  induction bs generalizing m a with
  | nil => rfl
  | cons b bs ih =>
    simp only [List.length_cons] at h
    unfold Memory.writeBytes
    rw [if_pos (by omega), ih _ _ (by omega)]

/-- A write that leaves memory reports index 65536, when it starts inside. -/
theorem Memory.writeBytes_error (m : Memory) (bs : List Byte) (a : Nat) (ha : a ≤ memSize)
    (h : memSize < a + bs.length) : (m.writeBytes a bs).2 = some (.outOfBoundsAddress memSize) := by
  induction bs generalizing m a with
  | nil => simp at h; omega
  | cons b bs ih =>
    simp only [List.length_cons] at h
    unfold Memory.writeBytes
    by_cases hlt : a < memSize
    · rw [if_pos hlt, ih _ _ (by omega) (by omega)]
    · rw [if_neg hlt, show a = memSize by omega]

/-- Every sequence of writes keeps the canonical form. -/
theorem Memory.wf_writeBytes {m : Memory} (h : m.wf) (bs : List Byte) (a : Nat) : (m.writeBytes a bs).1.wf := by
  induction bs generalizing m a with
  | nil => exact h
  | cons b bs ih =>
    unfold Memory.writeBytes
    split
    · next ha => exact ih (Memory.wf_setByte h ha b) (a + 1)
    · exact h

@[simp] theorem length_natToBytes (n v : Nat) : (natToBytes n v).length = n := by
  induction n with
  | zero => rfl
  | succ n ih => simp [natToBytes, ih]

/-- `MemWrite` keeps the canonical form. -/
theorem Memory.wf_write {m : Memory} (h : m.wf) (a n v : Nat) : (m.write a n v).1.wf :=
  Memory.wf_writeBytes h _ _

/-- Everything a write that starts inside memory can answer. -/
theorem Memory.write_cases (m : Memory) (a n v : Nat) (ha : a ≤ memSize) :
    (a + n ≤ memSize ∧ (m.write a n v).2 = none) ∨
    (memSize < a + n ∧ (m.write a n v).2 = some (.outOfBoundsAddress memSize)) := by
  rcases Nat.lt_or_ge memSize (a + n) with h | h
  · exact .inr ⟨h, m.writeBytes_error _ a ha (by simpa using h)⟩
  · exact .inl ⟨h, m.writeBytes_ok _ a (by simpa using h)⟩

/-- A write leaves every cell outside its `n` bytes alone. -/
theorem Memory.byteAt_write_outside (m : Memory) (a n v x : Nat) (h : x < a ∨ a + n ≤ x) :
    (m.write a n v).1.byteAt x = m.byteAt x :=
  Memory.byteAt_writeBytes_outside m _ a x (by simpa using h)

end Sys2Proof.Machine
end

