-- ==== Sys2Proof/Laws/Operands.lean ====
section
/-! SUPPORT. Register codes and the operand operations: each operation's outcomes said once. -/

namespace Sys2Proof

theorem mem_allRegs (r : RegName) : r ∈ allRegs := by cases r <;> decide

/-- `Resolve` answers only a register that has the code (R12). -/
theorem Config.code_of_resolve {cfg : Config} {c : HalfWord} {r : RegName} (h : cfg.resolve c = some r) :
    cfg.code r = c := by
  simpa using List.find?_some h

/-- `Resolve` fails exactly where no register has the code (R12). -/
theorem Config.resolve_eq_none {cfg : Config} {c : HalfWord} :
    cfg.resolve c = none ↔ ∀ r, cfg.code r ≠ c := by
  simp [Config.resolve, mem_allRegs]

@[simp] theorem readOnly_iff (r : RegName) : readOnly r = true ↔ r = .rpc ∨ r = .rsp := by
  cases r <;> simp [readOnly]

end Sys2Proof

namespace Sys2Proof.Machine

theorem State.readOperand_some {s : State} {c : HalfWord} {r : RegName} (k : HalfWord → Result)
    (h : s.cfg.resolve c = some r) : s.readOperand c k = k (s.reg r) := by
  simp [State.readOperand, State.regGet, h]

theorem State.readOperand_none {s : State} {c : HalfWord} (k : HalfWord → Result)
    (h : s.cfg.resolve c = none) : s.readOperand c k = .next (s.raise (.unknownRegister c)) := by
  simp [State.readOperand, State.regGet, h]

/-- Everything reading a register operand can do (R14). -/
theorem State.readOperand_cases (s : State) (c : HalfWord) (k : HalfWord → Result) :
    (∃ r, s.cfg.resolve c = some r ∧ s.readOperand c k = k (s.reg r)) ∨
    (s.cfg.resolve c = none ∧ s.readOperand c k = .next (s.raise (.unknownRegister c))) := by
  cases h : s.cfg.resolve c with
  | some r => exact .inl ⟨r, rfl, s.readOperand_some k h⟩
  | none => exact .inr ⟨rfl, s.readOperand_none k h⟩

theorem State.writeOperand_writable {s : State} {c : HalfWord} {r : RegName} (v : HalfWord) (k : State → Result)
    (h : s.cfg.resolve c = some r) (hpc : r ≠ .rpc) (hsp : r ≠ .rsp) :
    s.writeOperand c v k = k (s.setReg r v) := by
  simp [State.writeOperand, State.regSet, h, hpc, hsp]

theorem State.writeOperand_readOnly {s : State} {c : HalfWord} {r : RegName} (v : HalfWord) (k : State → Result)
    (h : s.cfg.resolve c = some r) (hr : r = .rpc ∨ r = .rsp) :
    s.writeOperand c v k = .next (s.raise (.readOnlyRegisterViolation r)) := by
  simp [State.writeOperand, State.regSet, h, hr]

theorem State.writeOperand_none {s : State} {c : HalfWord} (v : HalfWord) (k : State → Result)
    (h : s.cfg.resolve c = none) : s.writeOperand c v k = .next (s.raise (.unknownRegister c)) := by
  simp [State.writeOperand, State.regSet, h]

/-- Everything writing a destination operand can do (R15). -/
theorem State.writeOperand_cases (s : State) (c v : HalfWord) (k : State → Result) :
    (∃ r, s.cfg.resolve c = some r ∧ r ≠ .rpc ∧ r ≠ .rsp ∧ s.writeOperand c v k = k (s.setReg r v)) ∨
    (∃ r, s.cfg.resolve c = some r ∧ (r = .rpc ∨ r = .rsp) ∧
      s.writeOperand c v k = .next (s.raise (.readOnlyRegisterViolation r))) ∨
    (s.cfg.resolve c = none ∧ s.writeOperand c v k = .next (s.raise (.unknownRegister c))) := by
  cases h : s.cfg.resolve c with
  | none => exact .inr (.inr ⟨rfl, s.writeOperand_none v k h⟩)
  | some r =>
    by_cases hr : r = .rpc ∨ r = .rsp
    · exact .inr (.inl ⟨r, rfl, hr, s.writeOperand_readOnly v k h hr⟩)
    · rw [not_or] at hr
      exact .inl ⟨r, rfl, hr.1, hr.2, s.writeOperand_writable v k h hr.1 hr.2⟩

end Sys2Proof.Machine
end

