-- ==== Sys2Proof/Laws/Exec.lean ====
section
/-! SUPPORT. What an instruction can do, said once: the outcomes of the two memory operations, and the inversion of
`exec` into the five shapes of effect and the fault. -/

namespace Sys2Proof.Machine

theorem toNat_le_memSize (v : HalfWord) : halfWordToDec v ≤ memSize := by
  have := v.isLt; unfold halfWordToDec memSize; omega

/-- Everything an instruction's memory read can do (R33). -/
theorem State.readMem_cases (s : State) (v : HalfWord) (n : Nat) (k : Nat → Result) :
    (v.toNat + n ≤ 65536 ∧
      s.readMem (halfWordToDec v) n k = k (bytesToNat ((List.range' v.toNat n).map s.mem.byteAt))) ∨
    (65536 < v.toNat + n ∧
      s.readMem (halfWordToDec v) n k = .next (s.raise (.outOfBoundsAddress 65536))) := by
  rcases s.mem.read_cases (halfWordToDec v) n (toNat_le_memSize v) with ⟨h, e⟩ | ⟨h, e⟩
  · exact .inl ⟨h, by unfold State.readMem; rw [e]⟩
  · exact .inr ⟨h, by unfold State.readMem; rw [e]; rfl⟩

/-- A one-byte read through a register cannot fault and gives the cell (R90, R136). -/
theorem State.readMem_one (s : State) (v : HalfWord) (k : Nat → Result) :
    s.readMem (halfWordToDec v) 1 k = k (s.byte v.toNat).toNat := by
  rcases s.readMem_cases v 1 k with ⟨_, e⟩ | ⟨h, _⟩
  · simpa [State.byte] using e
  · have := v.isLt; omega

/-- A two-byte read below 65535 gives the half-word, the cell at the address high (R92). -/
theorem State.readMem_two (s : State) (v : HalfWord) (k : Nat → Result) (hv : v.toNat < 65535) :
    s.readMem (halfWordToDec v) 2 k = k (hw (s.byte v.toNat) (s.byte (v.toNat + 1))).toNat := by
  rcases s.readMem_cases v 2 k with ⟨_, e⟩ | ⟨h, _⟩
  · rw [e, ← bytesToNat_two]; rfl
  · omega

/-- A two-byte read at 65535 faults (R92). -/
theorem State.readMem_two_top (s : State) (v : HalfWord) (k : Nat → Result) (hv : v.toNat = 65535) :
    s.readMem (halfWordToDec v) 2 k = .next (s.raise (.outOfBoundsAddress 65536)) := by
  rcases s.readMem_cases v 2 k with ⟨h, _⟩ | ⟨_, e⟩
  · omega
  · exact e

/-- Everything an instruction's memory write can do (R34, R138). -/
theorem State.writeMem_cases (s : State) (v : HalfWord) (n x : Nat) (k : State → Result) :
    (v.toNat + n ≤ 65536 ∧
      s.writeMem (halfWordToDec v) n x k = k (s.setMem (s.mem.write v.toNat n x).1)) ∨
    (65536 < v.toNat + n ∧ s.writeMem (halfWordToDec v) n x k =
      .next ((s.setMem (s.mem.write v.toNat n x).1).raise (.outOfBoundsAddress 65536))) := by
  rcases s.mem.write_cases (halfWordToDec v) n x (toNat_le_memSize v) with ⟨h, e⟩ | ⟨h, e⟩
  · exact .inl ⟨h, by unfold State.writeMem; rw [e]⟩
  · exact .inr ⟨h, by unfold State.writeMem; rw [e]; rfl⟩

/-- A one-byte write through a register cannot fault (R91, R136). -/
theorem State.writeMem_one (s : State) (v : HalfWord) (b : Byte) (k : State → Result) :
    s.writeMem (halfWordToDec v) 1 (byteToDec b) k = k (s.setMem (s.mem.setByte v.toNat b)) := by
  have hv := v.isLt
  rcases s.writeMem_cases v 1 (byteToDec b) k with ⟨_, e⟩ | ⟨h, _⟩
  · rw [e]; simp [Memory.write, Memory.writeBytes, byteToDec, memSize, hv]
  · omega

/-- A two-byte write below 65535: the high byte, then the low byte (R93). -/
theorem State.writeMem_two (s : State) (v x : HalfWord) (k : State → Result) (hv : v.toNat < 65535) :
    s.writeMem (halfWordToDec v) 2 (halfWordToDec x) k =
      k (s.setMem ((s.mem.setByte v.toNat (hi x)).setByte (v.toNat + 1) (lo x))) := by
  rcases s.writeMem_cases v 2 (halfWordToDec x) k with ⟨_, e⟩ | ⟨h, _⟩
  · rw [e]
    simp only [halfWordToDec, Memory.write, natToBytes_two, Memory.writeBytes, memSize,
      show v.toNat < 65536 by omega, show v.toNat + 1 < 65536 by omega, if_true]
  · omega

/-- A two-byte write at 65535: the high byte stands, then the fault (R34, R93). -/
theorem State.writeMem_two_top (s : State) (v x : HalfWord) (k : State → Result) (hv : v.toNat = 65535) :
    s.writeMem (halfWordToDec v) 2 (halfWordToDec x) k =
      .next ((s.setMem (s.mem.setByte 65535 (hi x))).raise (.outOfBoundsAddress 65536)) := by
  rcases s.writeMem_cases v 2 (halfWordToDec x) k with ⟨h, _⟩ | ⟨_, e⟩
  · omega
  · rw [e]; simp [halfWordToDec, Memory.write, Memory.writeBytes, memSize, hv]

/-- The five shapes of effect an instruction can have on the state, and the fault (R17, R20, R138). -/
inductive Effect (i : Instr) (s : State) : State → Prop where
  /-- A destination register written, then the advance. -/
  | wroteReg (c : HalfWord) (r : RegName) (v : HalfWord) (hc : i.writeOperand = some c)
      (hr : s.cfg.resolve c = some r) (hpc : r ≠ .rpc) (hsp : r ≠ .rsp) :
      Effect i s (s.setReg r v).advance
  /-- Cells written, then the advance; the address is that of operand2. -/
  | stored (r : RegName) (n v : Nat) (hi : i = .store i.op1 i.op2 ∧ n = 1 ∨ i = .storeh i.op1 i.op2 ∧ n = 2)
      (hr : s.cfg.resolve i.op2 = some r) (ha : (s.reg r).toNat + n ≤ 65536) :
      Effect i s (s.setMem (s.mem.write (s.reg r).toNat n v).1).advance
  /-- The partial effect of `STOREH` at 65535. -/
  | storedPart (r : RegName) (v : Nat) (hi : i = .storeh i.op1 i.op2)
      (hr : s.cfg.resolve i.op2 = some r) (ha : (s.reg r).toNat = 65535) :
      Effect i s ((s.setMem (s.mem.write (s.reg r).toNat 2 v).1).raise (.outOfBoundsAddress 65536))
  /-- A jump taken. -/
  | jumped (r q : RegName) (hi : i = .cjump i.op1 i.op2) (hr : s.cfg.resolve i.op1 = some r)
      (hq : s.cfg.resolve i.op2 = some q) (hz : s.reg q = 0) : Effect i s (s.setReg .rpc (s.reg r))
  /-- A jump not taken. -/
  | stayed (r q : RegName) (hi : i = .cjump i.op1 i.op2) (hr : s.cfg.resolve i.op1 = some r)
      (hq : s.cfg.resolve i.op2 = some q) (hz : s.reg q ≠ 0) : Effect i s s
  /-- An unknown register operand. -/
  | unknownReg (c : HalfWord) (hm : c ∈ i.registerOperands) (hc : s.cfg.resolve c = none) :
      Effect i s (s.raise (.unknownRegister c))
  /-- A read-only destination. -/
  | roDest (c : HalfWord) (r : RegName) (hc : i.writeOperand = some c) (hr : s.cfg.resolve c = some r)
      (hro : r = .rpc ∨ r = .rsp) : Effect i s (s.raise (.readOnlyRegisterViolation r))
  /-- `LOADH` at 65535. -/
  | loadhTop (r : RegName) (hi : i = .loadh i.op1 i.op2) (hr : s.cfg.resolve i.op1 = some r)
      (ha : (s.reg r).toNat = 65535) : Effect i s (s.raise (.outOfBoundsAddress 65536))

theorem isZero_iff (v : HalfWord) : isZero v = true ↔ v = 0 := by
  simp [isZero, halfWordToDec, ← BitVec.toNat_inj]

/-- A write of the destination operand followed by the advance has one of the effects. -/
theorem Effect.ofWriteOperand {i : Instr} {s : State} {c v : HalfWord} (hc : i.writeOperand = some c)
    (hm : c ∈ i.registerOperands) :
    ∃ t, (s.writeOperand c v fun t => .next t.advance) = .next t ∧ Effect i s t := by
  rcases s.writeOperand_cases c v fun t => .next t.advance with ⟨r, hr, hpc, hsp, e⟩ | ⟨r, hr, hro, e⟩ | ⟨hn, e⟩
  · exact ⟨_, e, .wroteReg c r v hc hr hpc hsp⟩
  · exact ⟨_, e, .roDest c r hc hr hro⟩
  · exact ⟨_, e, .unknownReg c hm hn⟩

/-- A register operand read, the rest having one of the effects whatever it is. -/
theorem Effect.ofReadOperand {i : Instr} {s : State} {c : HalfWord} {k : HalfWord → Result}
    (hm : c ∈ i.registerOperands)
    (hk : ∀ r, s.cfg.resolve c = some r → ∃ t, k (s.reg r) = .next t ∧ Effect i s t) :
    ∃ t, s.readOperand c k = .next t ∧ Effect i s t := by
  rcases s.readOperand_cases c k with ⟨r, hr, e⟩ | ⟨hn, e⟩
  · obtain ⟨t, ht, hE⟩ := hk r hr
    exact ⟨t, e.trans ht, hE⟩
  · exact ⟨_, e, .unknownReg c hm hn⟩

/-- INVERSION OF `exec`: every instruction answers a next state, and that state is one of the effects. -/
theorem exec_effect (i : Instr) (s : State) : ∃ t, exec i s = .next t ∧ Effect i s t := by
  cases i with
  | set a b => exact Effect.ofWriteOperand (i := .set a b) rfl (by simp [Instr.registerOperands])
  | mov a b =>
    exact Effect.ofReadOperand (i := .mov a b) (by simp [Instr.registerOperands]) fun r _ =>
      Effect.ofWriteOperand (i := .mov a b) rfl (by simp [Instr.registerOperands])
  | add a b =>
    exact Effect.ofReadOperand (i := .add a b) (by simp [Instr.registerOperands]) fun r _ =>
      Effect.ofReadOperand (i := .add a b) (by simp [Instr.registerOperands]) fun q _ =>
        Effect.ofWriteOperand (i := .add a b) rfl (by simp [Instr.registerOperands])
  | sub a b =>
    exact Effect.ofReadOperand (i := .sub a b) (by simp [Instr.registerOperands]) fun r _ =>
      Effect.ofReadOperand (i := .sub a b) (by simp [Instr.registerOperands]) fun q _ =>
        Effect.ofWriteOperand (i := .sub a b) rfl (by simp [Instr.registerOperands])
  | load a b =>
    refine Effect.ofReadOperand (i := .load a b) (by simp [Instr.registerOperands]) fun r _ => ?_
    rw [State.readMem_one]
    exact Effect.ofWriteOperand (i := .load a b) rfl (by simp [Instr.registerOperands])
  | loadh a b =>
    refine Effect.ofReadOperand (i := .loadh a b) (by simp [Instr.registerOperands]) fun r hr => ?_
    rcases s.readMem_cases (s.reg r) 2 _ with ⟨_, e⟩ | ⟨h, e⟩
    · rw [e]; exact Effect.ofWriteOperand (i := .loadh a b) rfl (by simp [Instr.registerOperands])
    · have := (s.reg r).isLt
      exact ⟨_, e, .loadhTop r rfl hr (by omega)⟩
  | store a b =>
    refine Effect.ofReadOperand (i := .store a b) (by simp [Instr.registerOperands]) fun r _ =>
      Effect.ofReadOperand (i := .store a b) (by simp [Instr.registerOperands]) fun q hq => ?_
    have := (s.reg q).isLt
    rcases s.writeMem_cases (s.reg q) 1 (byteToDec (lo (s.reg r))) fun t => .next t.advance with ⟨h, e⟩ | ⟨h, _⟩
    · exact ⟨_, e, .stored q 1 _ (.inl ⟨rfl, rfl⟩) hq h⟩
    · omega
  | storeh a b =>
    refine Effect.ofReadOperand (i := .storeh a b) (by simp [Instr.registerOperands]) fun r _ =>
      Effect.ofReadOperand (i := .storeh a b) (by simp [Instr.registerOperands]) fun q hq => ?_
    have := (s.reg q).isLt
    rcases s.writeMem_cases (s.reg q) 2 (halfWordToDec (s.reg r)) fun t => .next t.advance with ⟨h, e⟩ | ⟨h, e⟩
    · exact ⟨_, e, .stored q 2 _ (.inr ⟨rfl, rfl⟩) hq h⟩
    · exact ⟨_, e, .storedPart q _ rfl hq (by omega)⟩
  | cjump a b =>
    refine Effect.ofReadOperand (i := .cjump a b) (by simp [Instr.registerOperands]) fun r hr =>
      Effect.ofReadOperand (i := .cjump a b) (by simp [Instr.registerOperands]) fun q hq => ?_
    by_cases hz : s.reg q = 0
    · exact ⟨_, if_pos ((isZero_iff _).2 hz), .jumped r q rfl hr hq hz⟩
    · exact ⟨_, if_neg fun h => hz ((isZero_iff _).1 h), .stayed r q rfl hr hq hz⟩

/-- The effect of an instruction whose outcome is known. -/
theorem effect_of_exec {i : Instr} {s t : State} (h : exec i s = .next t) : Effect i s t := by
  obtain ⟨t', h', hE⟩ := exec_effect i s
  rw [h] at h'
  cases h'
  exact hE

end Sys2Proof.Machine
end

