-- ==== Sys2Proof/Laws/Cycle.lean ====
section
/-! SUPPORT. What a fetch, a device poll, the rest of a cycle and a step can do, each said once. -/

namespace Sys2Proof.Machine

/-! ### Fetch -/

/-- A fetch at or below 65531 gives the opcode byte and the two big-endian operands (R51, R71). -/
theorem fetch_ok (s : State) (h : (s.reg .rpc).toNat ≤ 65531) :
    fetch s = .ok (mkWord (s.byte (s.reg .rpc).toNat)
      (hw (s.byte ((s.reg .rpc).toNat + 1)) (s.byte ((s.reg .rpc).toNat + 2)))
      (hw (s.byte ((s.reg .rpc).toNat + 3)) (s.byte ((s.reg .rpc).toNat + 4)))) := by
  unfold fetch
  rw [Memory.read_ok _ _ _ (.inr (by unfold memSize halfWordToDec; omega)), ← ofNat_bytesToNat_five]
  rfl

/-- A fetch above 65531 faults at index 65536 (R71). -/
theorem fetch_error (s : State) (h : 65531 < (s.reg .rpc).toNat) :
    fetch s = .error (.outOfBoundsAddress 65536) := by
  unfold fetch
  rw [Memory.read_error _ _ _ (toNat_le_memSize _) (by unfold memSize halfWordToDec; omega)]
  rfl

/-! ### The device step -/

/-- The only faults of a poll (R123). -/
theorem devicePoll_error {cfg : Config} {m : Memory} {e : Cause} (h : devicePoll cfg m = .error e) :
    (∃ d, e = .unknownOpcodeDevice d ∧ cfg.devop d = .unknown) ∨ e = .outOfBoundsAddress 65536 := by
  have hA : halfWordToDec cfg.deviceBusAddr ≤ memSize := toNat_le_memSize _
  have hlt := cfg.deviceBusAddr.isLt
  have hread : ∀ j, j + 1 ≤ 6 → (∀ i, i < j → halfWordToDec cfg.deviceBusAddr + i < memSize) →
      ∀ e, m.read (halfWordToDec cfg.deviceBusAddr + j) 2 = .error e → e = .outOfBoundsAddress 65536 := by
    intro j _ hj e he
    have : halfWordToDec cfg.deviceBusAddr + j ≤ memSize := by
      cases j with
      | zero => exact hA
      | succ j => have := hj j (by omega); omega
    rcases m.read_cases (halfWordToDec cfg.deviceBusAddr + j) 2 this with ⟨_, h'⟩ | ⟨_, h'⟩
    · rw [h'] at he; cases he
    · rw [h'] at he; cases he; rfl
  have hgood : ∀ j, (∀ e, m.read (halfWordToDec cfg.deviceBusAddr + j) 2 ≠ .error e) →
      halfWordToDec cfg.deviceBusAddr + j ≤ memSize → halfWordToDec cfg.deviceBusAddr + j + 2 ≤ memSize := by
    intro j hj hle
    rcases m.read_cases (halfWordToDec cfg.deviceBusAddr + j) 2 hle with ⟨h', _⟩ | ⟨_, h'⟩
    · exact h'
    · exact absurd h' (hj _)
  have hA' : halfWordToDec cfg.deviceBusAddr < memSize := hlt
  unfold devicePoll at h
  split at h
  · next e' he =>
    rcases m.read_cases (halfWordToDec cfg.deviceBusAddr) 1 hA with ⟨_, h'⟩ | ⟨h', _⟩
    · rw [h'] at he; cases he
    · omega
  · split at h
    · cases h
    · split at h
      · cases h
      · next e' he =>
        cases h
        refine .inr ?_
        unfold readPayload at he
        split at he
        · next e1 h1 => cases he; exact hread 1 (by omega) (by intro i hi; omega) _ h1
        · next h1 =>
          have g1 := hgood 1 (by simp [h1]) (by omega)
          split at he
          · next e2 h2 => cases he; exact hread 3 (by omega) (by intro i hi; omega) _ h2
          · next h2 =>
            have g2 := hgood 3 (by simp [h2]) (by omega)
            split at he
            · next e3 h3 => cases he; exact hread 5 (by omega) (by intro i hi; omega) _ h3
            · cases he
    · cases h
    · cases h
    · next hu => cases h; exact .inl ⟨_, rfl, hu⟩

/-- Everything a device step can do: nothing, one command, or a fault with nothing else changed (R110 to R119). -/
theorem deviceStep_cases (a : HalfWord) (s : State) :
    deviceStep a s = s ∨
    (∃ c, s.enableDevice = true ∧ devicePoll s.cfg s.mem = .ok (some c) ∧ deviceStep a s = s.emit c) ∨
    (∃ e, s.enableDevice = true ∧ devicePoll s.cfg s.mem = .error e ∧ deviceStep a s = s.raiseAt a e) := by
  unfold deviceStep deviceBusCycle
  split
  · next he =>
    cases h : devicePoll s.cfg s.mem with
    | error e => exact .inr (.inr ⟨e, he, rfl, rfl⟩)
    | ok o =>
      cases o with
      | none => exact .inl rfl
      | some c => exact .inr (.inl ⟨c, he, rfl, rfl⟩)
  · exact .inl rfl

/-! ### The rest of the cycle -/

/-- Everything the halt check can do (R77). -/
theorem haltCheck_cases (s : State) :
    (haltCheck s = s.setRun .halted ∧ s.run = .running ∧ s.reg .rpc = s.reg .rsp) ∨
    (haltCheck s = s ∧ (s.run = .running → s.reg .rpc ≠ s.reg .rsp)) := by
  unfold haltCheck
  cases h : s.run with
  | running =>
    by_cases hr : s.reg .rpc = s.reg .rsp
    · exact .inl ⟨if_pos hr, rfl, hr⟩
    · exact .inr ⟨if_neg hr, fun _ => hr⟩
  | halted => exact .inr ⟨rfl, fun h => nomatch h⟩
  | faulted e b => exact .inr ⟨rfl, fun h => nomatch h⟩
  | loadFailed e => exact .inr ⟨rfl, fun h => nomatch h⟩

/-- After an instruction that left the run running: the device step and the halt check (R70). -/
theorem afterInstr_running {a : HalfWord} {s : State} (h : s.run = .running) :
    afterInstr a s = haltCheck (deviceStep a s) := by
  simp [afterInstr, h]

/-- After an instruction that faulted: nothing (R80). -/
theorem afterInstr_stopped {a : HalfWord} {s : State} (h : s.run ≠ .running) : afterInstr a s = s := by
  unfold afterInstr
  split
  · next h' => exact absurd h' h
  all_goals rfl

@[simp] theorem haltCheck_regs (s : State) : (haltCheck s).regs = s.regs := by
  rcases haltCheck_cases s with ⟨e, _⟩ | ⟨e, _⟩ <;> simp [e]

@[simp] theorem haltCheck_mem (s : State) : (haltCheck s).mem = s.mem := by
  rcases haltCheck_cases s with ⟨e, _⟩ | ⟨e, _⟩ <;> simp [e]

@[simp] theorem haltCheck_trace (s : State) : (haltCheck s).trace = s.trace := by
  rcases haltCheck_cases s with ⟨e, _⟩ | ⟨e, _⟩ <;> simp [e]

@[simp] theorem haltCheck_enableDevice (s : State) : (haltCheck s).enableDevice = s.enableDevice := by
  rcases haltCheck_cases s with ⟨e, _⟩ | ⟨e, _⟩ <;> simp [e]

@[simp] theorem haltCheck_cfg (s : State) : (haltCheck s).cfg = s.cfg := by
  rcases haltCheck_cases s with ⟨e, _⟩ | ⟨e, _⟩ <;> simp [e]

@[simp] theorem deviceStep_regs (a : HalfWord) (s : State) : (deviceStep a s).regs = s.regs := by
  rcases deviceStep_cases a s with e | ⟨c, _, _, e⟩ | ⟨c, _, _, e⟩ <;> simp [e]

@[simp] theorem deviceStep_mem (a : HalfWord) (s : State) : (deviceStep a s).mem = s.mem := by
  rcases deviceStep_cases a s with e | ⟨c, _, _, e⟩ | ⟨c, _, _, e⟩ <;> simp [e]

@[simp] theorem deviceStep_enableDevice (a : HalfWord) (s : State) :
    (deviceStep a s).enableDevice = s.enableDevice := by
  rcases deviceStep_cases a s with e | ⟨c, _, _, e⟩ | ⟨c, _, _, e⟩ <;> simp [e]

@[simp] theorem deviceStep_cfg (a : HalfWord) (s : State) : (deviceStep a s).cfg = s.cfg := by
  rcases deviceStep_cases a s with e | ⟨c, _, _, e⟩ | ⟨c, _, _, e⟩ <;> simp [e]

/-! ### A step -/

theorem step_running {s : State} (h : s.run = .running) (hne : s.reg .rpc ≠ s.reg .rsp) : step s = cycle s := by
  simp [step, engineStep, h, hne]

theorem step_boundary {s : State} (h : s.run = .running) (he : s.reg .rpc = s.reg .rsp) :
    step s = .next (s.setRun .halted) := by
  simp [step, engineStep, h, he]

theorem step_halted {s : State} (h : s.run = .halted) : step s = .next s := by simp [step, engineStep, h]

theorem step_faulted {s : State} {e : Cause} {a : HalfWord} (h : s.run = .faulted e a) :
    step s = .fault (.runFaulted e a) := by simp [step, engineStep, h]

theorem step_loadFailed {s : State} {e : Cause} (h : s.run = .loadFailed e) :
    step s = .fault (.loadFailed e) := by simp [step, engineStep, h]

theorem cycle_fetchFault {s : State} {e : Cause} (h : fetch s = .error e) : cycle s = .next (s.raise e) := by
  simp [cycle, h]

theorem cycle_illegal {s : State} {I : InstrWord} {b : Byte} (h : fetch s = .ok I) (hd : decodeWord I = .error b) :
    cycle s = .next (s.raise (.unknownOpcodeCpu b)) := by simp [cycle, h, hd]

theorem cycle_exec {s t : State} {I : InstrWord} {i : Instr} (h : fetch s = .ok I) (hd : decodeWord I = .ok i)
    (he : exec i s = .next t) : cycle s = .next (afterInstr (s.reg .rpc) t) := by
  simp [cycle, h, hd, he, finishCycle]

/-- INVERSION OF `step`: everything a step that answers a next state can have done. -/
theorem step_cases {s t : State} (h : step s = .next t) :
    (s.run = .running ∧ s.reg .rpc = s.reg .rsp ∧ t = s.setRun .halted) ∨
    (s.run = .halted ∧ t = s) ∨
    (s.run = .running ∧ s.reg .rpc ≠ s.reg .rsp ∧
      ((65531 < (s.reg .rpc).toNat ∧ t = s.raise (.outOfBoundsAddress 65536)) ∨
       (∃ I b, fetch s = .ok I ∧ decodeWord I = .error b ∧ t = s.raise (.unknownOpcodeCpu b)) ∨
       (∃ I i u, fetch s = .ok I ∧ decodeWord I = .ok i ∧ exec i s = .next u ∧
          t = afterInstr (s.reg .rpc) u))) := by
  cases hr : s.run with
  | halted => rw [step_halted hr] at h; cases h; exact .inr (.inl ⟨rfl, rfl⟩)
  | faulted e a => rw [step_faulted hr] at h; cases h
  | loadFailed e => rw [step_loadFailed hr] at h; cases h
  | running =>
    by_cases he : s.reg .rpc = s.reg .rsp
    · rw [step_boundary hr he] at h; cases h; exact .inl ⟨rfl, he, rfl⟩
    · refine .inr (.inr ⟨rfl, he, ?_⟩)
      rw [step_running hr he] at h
      by_cases hp : 65531 < (s.reg .rpc).toNat
      · rw [cycle_fetchFault (fetch_error s hp)] at h; cases h; exact .inl ⟨hp, rfl⟩
      · obtain ⟨I, hf⟩ : ∃ I, fetch s = .ok I := ⟨_, fetch_ok s (by omega)⟩
        refine .inr ?_
        cases hd : decodeWord I with
        | error b => rw [cycle_illegal hf hd] at h; cases h; exact .inl ⟨I, b, hf, hd, rfl⟩
        | ok i =>
          obtain ⟨u, hu, _⟩ := exec_effect i s
          rw [cycle_exec hf hd hu] at h; cases h
          exact .inr ⟨I, i, u, hf, hd, hu, rfl⟩

end Sys2Proof.Machine
end

