-- ==== Sys2Proof/Laws/Load.lean ====
section
/-! SUPPORT. What the load loop can do, and that the reset state is the reset of the empty image. -/

namespace Sys2Proof.Machine

/-- The loop keeps the canonical form, however it ends. -/
theorem wf_loadTokens {m : Memory} (h : m.wf) (ts : List Token) (n : Nat) : (loadTokens m n ts).1.wf := by
  induction ts generalizing m n with
  | nil => exact h
  | cons t ts ih =>
    unfold loadTokens
    split
    · split
      · next hn => exact ih (Memory.wf_setByte h hn _) (n + 1)
      · exact h
    · exact h

/-- Everything the loop can answer: the token count, or the first bad token, or the index past the last cell. -/
theorem loadTokens_cases (ts : List Token) (m : Memory) (n : Nat) (hn : n ≤ memSize) :
    (loadTokens m n ts).2 = .ok (n + ts.length) ∨
    (∃ t, wellFormedByte t = false ∧ (loadTokens m n ts).2 = .error (.malformedEncoding t)) ∨
    (loadTokens m n ts).2 = .error (.outOfBoundsAddress memSize) := by
  induction ts generalizing m n with
  | nil => exact .inl rfl
  | cons t ts ih =>
    unfold loadTokens
    cases ht : wellFormedByte t with
    | false => exact .inr (.inl ⟨t, ht, rfl⟩)
    | true =>
      by_cases hlt : n < memSize
      · simp only [hlt, if_true]
        rw [List.length_cons, show n + (ts.length + 1) = n + 1 + ts.length by omega]
        exact ih _ (n + 1) hlt
      · simp only [hlt, if_true, if_false]
        exact .inr (.inr (by rw [show n = memSize by omega]))

/-- The loop passes over well-formed tokens that fit, whatever follows them. -/
theorem loadTokens_append (ts us : List Token) (m : Memory) (n : Nat) (hw : ∀ t ∈ ts, wellFormedByte t = true)
    (hn : n + ts.length ≤ memSize) : ∃ m', loadTokens m n (ts ++ us) = loadTokens m' (n + ts.length) us := by
  induction ts generalizing m n with
  | nil => exact ⟨m, rfl⟩
  | cons t ts ih =>
    rw [List.length_cons] at hn
    obtain ⟨m', e⟩ := ih (m.setByte n (tokenValue t)) (n + 1) (fun u hu => hw u (by simp [hu])) (by omega)
    refine ⟨m', ?_⟩
    rw [List.cons_append, loadTokens, if_pos (hw t (by simp)), if_pos (by omega), e, List.length_cons]
    congr 1; omega

/-- Loading well-formed tokens that fit: the count, and every cell. -/
theorem loadTokens_ok (ts : List Token) (m : Memory) (n : Nat) (hw : ∀ t ∈ ts, wellFormedByte t = true)
    (hn : n + ts.length ≤ memSize) :
    (loadTokens m n ts).2 = .ok (n + ts.length) ∧
    (∀ k t, ts[k]? = some t → (loadTokens m n ts).1.byteAt (n + k) = tokenValue t) ∧
    (∀ a, a < n ∨ n + ts.length ≤ a → (loadTokens m n ts).1.byteAt a = m.byteAt a) := by
  induction ts generalizing m n with
  | nil => exact ⟨rfl, fun k t h => by simp at h, fun a _ => rfl⟩
  | cons t ts ih =>
    rw [List.length_cons] at hn
    obtain ⟨h1, h2, h3⟩ := ih (m.setByte n (tokenValue t)) (n + 1) (fun u hu => hw u (by simp [hu])) (by omega)
    have e : loadTokens m n (t :: ts) = loadTokens (m.setByte n (tokenValue t)) (n + 1) ts := by
      rw [loadTokens, if_pos (hw t (by simp)), if_pos (by omega)]
    rw [e, List.length_cons]
    refine ⟨by rw [h1]; congr 1; omega, fun k u hk => ?_, fun a ha => ?_⟩
    · cases k with
      | zero =>
        rw [List.getElem?_cons_zero, Option.some.injEq] at hk
        subst hk
        exact (h3 n (by omega)).trans (by simp)
      | succ k =>
        rw [show n + (k + 1) = n + 1 + k by omega]
        exact h2 k u (by simpa using hk)
    · rw [h3 a (by omega), Memory.byteAt_setByte, if_neg (by omega)]

/-- The reset state is the reset of the empty image under the default configuration (R155). -/
theorem reset_eq_load : State.reset = State.load Config.default defaultEnableDevice [] := rfl

/-- The reset state's memory is in canonical form. -/
theorem wf_reset_mem : State.reset.mem.wf := Memory.wf_nil

end Sys2Proof.Machine
end

