-- ==== Sys2Proof/Laws/PerInstr.lean ====
section
/-! SUPPORT. The per-instruction family `ByteLayout`: the five bytes of an instruction, assembled big-endian, are its
40-bit word, and the word's three fields are the opcode byte and the two operands (R51, R52). -/

namespace Sys2Proof.Laws.ByteLayout

/-- The byte form and the word form of the encoding agree, and no field is dropped. -/
def Statement (i : Instr) : Prop :=
  BitVec.ofNat 40 (bytesToNat (encode i)) = encodeWord i ∧
  wordOpcode (encodeWord i) = opcodeByte i.kind ∧ wordOp1 (encodeWord i) = i.op1 ∧
  wordOp2 (encodeWord i) = i.op2

/-- The layout is that of format `F5`, whatever the kind. -/
theorem of_instr (i : Instr) : Statement i := by
  refine ⟨?_, ?_, ?_, ?_⟩
  · rw [encode, ofNat_bytesToNat_five, hw_hi_lo, hw_hi_lo, encodeWord]
  · exact wordOpcode_mkWord _ _ _
  · exact wordOp1_mkWord _ _ _
  · exact wordOp2_mkWord _ _ _

theorem load (op1 op2 : HalfWord) : Statement (.load op1 op2) := of_instr _

theorem store (op1 op2 : HalfWord) : Statement (.store op1 op2) := of_instr _

theorem set (op1 op2 : HalfWord) : Statement (.set op1 op2) := of_instr _

theorem loadh (op1 op2 : HalfWord) : Statement (.loadh op1 op2) := of_instr _

theorem storeh (op1 op2 : HalfWord) : Statement (.storeh op1 op2) := of_instr _

theorem add (op1 op2 : HalfWord) : Statement (.add op1 op2) := of_instr _

theorem sub (op1 op2 : HalfWord) : Statement (.sub op1 op2) := of_instr _

theorem cjump (op1 op2 : HalfWord) : Statement (.cjump op1 op2) := of_instr _

theorem mov (op1 op2 : HalfWord) : Statement (.mov op1 op2) := of_instr _

end Sys2Proof.Laws.ByteLayout
end

