-- ==== Sys2Proof/Laws/Run.lean ====
section
/-! SUPPORT. Runs of many steps, the fault entry and the register-writing effect in the words of Safety.lean, and the
induction over a run packaged once. -/

namespace Sys2Proof.Machine

/-! ### Runs -/

@[simp] theorem runSteps_zero (s : State) : runSteps 0 s = .next s := rfl

theorem runSteps_next {s t : State} (k : Nat) (h : step s = .next t) : runSteps (k + 1) s = runSteps k t := by
  simp [runSteps, Host.Core.run, core, h]

theorem runSteps_fault {s : State} {f : Fault} (k : Nat) (h : step s = .fault f) :
    runSteps (k + 1) s = .fault f := by
  simp [runSteps, Host.Core.run, core, h]

theorem runSteps_refused {s : State} {r : Refusal} (k : Nat) (h : step s = .refused r) :
    runSteps (k + 1) s = .refused r := by
  simp [runSteps, Host.Core.run, core, h]

/-- The first step of a run that answers a next state. -/
theorem runSteps_succ {s t : State} {k : Nat} (h : runSteps (k + 1) s = .next t) :
    ∃ u, step s = .next u ∧ runSteps k u = .next t := by
  cases hs : step s with
  | next u => exact ⟨u, rfl, by rwa [runSteps_next k hs] at h⟩
  | fault f => rw [runSteps_fault k hs] at h; cases h
  | refused r => rw [runSteps_refused k hs] at h; cases h

/-- A relation that is reflexive, composes, and holds across every step holds across every run. -/
theorem runSteps_induction {R : State → State → Prop} (hrefl : ∀ s, R s s)
    (hstep : ∀ s u t, step s = .next u → R u t → R s t) {k : Nat} {s t : State}
    (h : runSteps k s = .next t) : R s t := by
  induction k generalizing s with
  | zero => cases h; exact hrefl _
  | succ k ih =>
    obtain ⟨u, hu, hk⟩ := runSteps_succ h
    exact hstep s u t hu (ih hk)

/-! ### The fetched instruction -/

theorem nextInstr_some {s : State} {i : Instr} (h : s.nextInstr = some i) :
    ∃ I, fetch s = .ok I ∧ decodeWord I = .ok i := by
  unfold State.nextInstr at h
  split at h
  · cases h
  · next I hI =>
    split at h
    · cases h
    · next j hj => cases h; exact ⟨I, hI, hj⟩

theorem nextInstr_of_fetch {s : State} {I : InstrWord} {i : Instr} (h : fetch s = .ok I)
    (hd : decodeWord I = .ok i) : s.nextInstr = some i := by simp [State.nextInstr, h, hd]

/-! ### The frames of the shared operations -/

/-- Taking a fault changes the run state and nothing else (R137). -/
theorem faultedWith_raise (s : State) (e : Cause) : faultedWith e s (s.raise e) :=
  ⟨rfl, fun _ _ => rfl, fun _ => rfl, rfl, rfl, rfl⟩

/-- A register write followed by the advance changes that register and `RPC` and nothing else. -/
theorem onlyReg_setReg_advance (s : State) {r : RegName} (v : HalfWord) (hr : writable r) :
    onlyReg r s (s.setReg r v).advance := by
  refine ⟨?_, fun q hq => ?_, fun _ => rfl, ⟨rfl, rfl, rfl⟩, rfl⟩
  · simp [advanced, halfWordToDec, Ne.symm hr.1]
  · rw [List.mem_cons, List.mem_singleton, not_or] at hq
    simp [hq]

theorem reg_setReg_advance (s : State) {r : RegName} (v : HalfWord) (hr : writable r) :
    (s.setReg r v).advance.reg r = v := by simp [hr.1]

theorem not_writable_iff (r : RegName) : ¬ writable r ↔ r = .rpc ∨ r = .rsp := by
  unfold writable; tauto

/-! ### The device poll -/

/-- The poll's opcode read cannot fault: the address is a half-word (R111). -/
theorem read_deviceByte (s : State) :
    s.mem.read (halfWordToDec s.cfg.deviceBusAddr) 1 = .ok (s.byte s.cfg.deviceBusAddr.toNat).toNat := by
  have := s.cfg.deviceBusAddr.isLt
  rw [Memory.read_ok _ _ _ (.inr (by unfold memSize halfWordToDec; omega)), ← bytesToNat_one]
  rfl

/-- A two-byte read inside memory. -/
theorem Memory.read_two (m : Memory) (a : Nat) (h : a + 2 ≤ 65536) :
    m.read a 2 = .ok (hw (m.byteAt a) (m.byteAt (a + 1))).toNat := by
  rw [Memory.read_ok _ _ _ (.inr h), ← bytesToNat_two]; rfl

/-- A payload inside memory is read as its three half-words (R113). -/
theorem readPayload_ok (m : Memory) (A : Nat) (h : A + 6 ≤ 65535) :
    readPayload m A = .ok (pixelCommand (hw (m.byteAt (A + 1)) (m.byteAt (A + 2)))
      (hw (m.byteAt (A + 3)) (m.byteAt (A + 4))) (hw (m.byteAt (A + 5)) (m.byteAt (A + 6)))) := by
  unfold readPayload
  rw [Memory.read_two _ _ (by omega), Memory.read_two _ _ (by omega), Memory.read_two _ _ (by omega)]
  simp only [decToHalfWord_toNat]

/-- A two-byte read that starts inside memory and leaves it. -/
theorem Memory.read_two_error (m : Memory) (a : Nat) (ha : a ≤ 65536) (h : 65535 ≤ a) :
    m.read a 2 = .error (.outOfBoundsAddress 65536) := by
  rw [Memory.read_error m a 2 ha (by unfold memSize; omega)]; rfl

/-- A payload that leaves memory is not read whole: the first index out of range is the fault (R113, R123). -/
theorem readPayload_error (m : Memory) (A : Nat) (hA : A ≤ 65535) (h : 65529 < A) :
    readPayload m A = .error (.outOfBoundsAddress 65536) := by
  unfold readPayload
  by_cases h1 : 65535 ≤ A + 1
  · rw [Memory.read_two_error _ _ (by omega) h1]
  · rw [Memory.read_two _ _ (by omega)]
    by_cases h3 : 65535 ≤ A + 3
    · simp only [Memory.read_two_error _ _ (show A + 3 ≤ 65536 by omega) h3]
    · rw [Memory.read_two _ _ (by omega), Memory.read_two_error _ _ (by omega) (by omega)]

/-- `Norm(f, w)` as a quotient of rationals (R115). -/
theorem norm_eq (f w : Nat) : norm f w = (f : Rat) * 255 / ((2 ^ w - 1 : Nat) : Rat) := by
  unfold norm; rw [Rat.mkRat_eq_div]; push_cast; rfl

end Sys2Proof.Machine
end

