-- ==== Sys2Proof/Tests/Slice0.lean ====
section
/-! SUPPORT. The model's own tests: ill-formed instructions that `wellFormed` refuses, words written out from the
encodings of spec/30_encoding.md, single steps with the results spec/95_test_vectors.md gives, and a witness for the
hypotheses of every statement that has some. Every expected result is the spec's (the vector's name stands in the
docstring). -/

namespace Sys2Proof.Tests

open Sys2Proof.Machine

/-- The next state of an outcome, if it is one. -/
def nextOf : Result → Option State
  | .next s => some s
  | .fault _ => none
  | .refused _ => none

/-- A running state with the device off: `RPC`, `RSP`, `R00`, `R01` and memory as given, all else as after reset. -/
def mk (rpc rsp r0 r1 : HalfWord) (m : Memory) : State :=
  { State.reset with
    regs := { State.reset.regs with rpc := rpc, rsp := rsp, r00 := r0, r01 := r1 }
    mem := m
    enableDevice := false }

/-- The same with the device on. -/
def mkDev (rpc rsp r0 r1 : HalfWord) (m : Memory) : State := { mk rpc rsp r0 r1 m with enableDevice := true }

/-- One field of what a step answers. -/
def after {α : Type} (s : State) (f : State → α) : Option α := (nextOf (step s)).map f

/-- Whether an outcome is a next state of which `P` holds. -/
def endsIn (o : Result) (P : State → Prop) [DecidablePred P] : Bool :=
  match o with
  | .next s => decide (P s)
  | .fault _ => false
  | .refused _ => false

theorem next_of {o : Result} {P : State → Prop} [DecidablePred P] (h : endsIn o P = true) :
    ∃ t, o = .next t ∧ P t := by
  cases o with
  | next s => exact ⟨s, rfl, of_decide_eq_true h⟩
  | fault f => cases h
  | refused r => cases h

/-! ### WellFormed refuses -/

/-- The two instructions differ in one code: the second one's is no register's (R57). -/
theorem test_wellFormed_unknown_code :
    (Instr.mov 0x0001 0x000A).wellFormed Config.default = true ∧
    (Instr.mov 0x0001 0x0BAD).wellFormed Config.default = false ∧
    (Instr.mov 0x0001 0x0BAD).codesKnown Config.default = false := by decide

/-- A destination that is `RPC` or `RSP` (R58); `SET`'s second operand is no code at all (R53). -/
theorem test_wellFormed_read_only_destination :
    (Instr.set 0x000A 0x0BAD).wellFormed Config.default = true ∧
    (Instr.set Config.default.codeRsp 0x0001).wellFormed Config.default = false ∧
    (Instr.loadh 0x0001 Config.default.codeRpc).destinationWritable Config.default = false := by decide

/-! ### Decoding of words written out from R51 and R54 -/

/-- T-DE1, T-DE2, T-DE3, T-DE6: a word for each of the nine instructions. -/
theorem test_decode_words :
    decode [0x01, 0x00, 0x01, 0x00, 0x02] = .ok (.load 0x0001 0x0002) ∧
    decode [0x02, 0x00, 0x03, 0x00, 0x0A] = .ok (.store 0x0003 0x000A) ∧
    decode [0x03, 0x00, 0x01, 0x00, 0x05] = .ok (.set 0x0001 0x0005) ∧
    decode [0x04, 0x12, 0x34, 0xAB, 0xCD] = .ok (.loadh 0x1234 0xABCD) ∧
    decode [0x05, 0x80, 0x00, 0x00, 0x01] = .ok (.storeh 0x8000 0x0001) ∧
    decode [0x06, 0x00, 0x01, 0x00, 0x02] = .ok (.add 0x0001 0x0002) ∧
    decode [0x07, 0x01, 0x00, 0x02, 0x00] = .ok (.sub 0x0100 0x0200) ∧
    decode [0x08, 0x00, 0x05, 0x00, 0x06] = .ok (.cjump 0x0005 0x0006) ∧
    decode [0x09, 0x00, 0x01, 0x00, 0x02] = .ok (.mov 0x0001 0x0002) := by decide

/-- T-DE4, T-DE5, and a byte sequence of the wrong length: rejected by name. -/
theorem test_decode_rejects :
    decode [0x00, 0x00, 0x00, 0x00, 0x00] = .error (.invalidOpcode 0x00) ∧
    decode [0x0A, 0x00, 0x01, 0x00, 0x02] = .error (.invalidOpcode 0x0A) ∧
    decode [0xFF, 0x00, 0x01, 0x00, 0x02] = .error (.invalidOpcode 0xFF) ∧
    decode [0x03, 0x00, 0x01, 0x00] = .error (.wrongLength 4) := by decide

/-- The host's word of a row: LOAD's "match" in spec/opcode_table.json with operands, and the opcode byte alone. -/
theorem test_decodeTableWord :
    decodeTableWord 40 0x0100010002 = some (.load 0x0001 0x0002) ∧
    decodeTableWord 8 0x09 = some (.mov 0x0000 0x0000) ∧
    decodeTableWord 40 0x0A00010002 = none := by decide

/-- A placed word is what the very next step after reset runs: `SET R00 5`. -/
theorem test_withFetchWord_reset :
    after (State.reset.withFetchWord 40 0x0300010005) (fun t => (t.reg .r00, t.reg .rpc, t.run)) =
      some (5, 5, .halted) := by decide

/-! ### Codec -/

/-- T-CD2, T-CD4, T-CD5. -/
theorem test_codec :
    decToByte 511 = 0xFF ∧ decToHalfWord 70000 = 0x1170 ∧ hw 0x00 0x05 = 5 ∧ hw 0xFF 0x00 = 65280 := by decide

/-- T-CD6: a token's value, and the three malformed ones. -/
theorem test_tokens :
    tokenOfByte 3 = "00000011".toList ∧ tokenValue "00000011".toList = 3 ∧
    wellFormedByte "0000001".toList = false ∧ wellFormedByte "00000012".toList = false ∧
    wellFormedByte "000000011".toList = false := by decide

/-! ### One step per instruction -/

/-- T-SET3: the literal, not the register's value. -/
theorem test_set_literal :
    after (mk 10 100 0 0x7777 [(10, 3), (12, 1), (14, 2)]) (fun t => (t.reg .r00, t.reg .rpc)) = some (2, 15) := by
  decide

/-- T-SET5: `RPC` is read-only. -/
theorem test_set_rpc_faults :
    after (mk 10 100 0 0 [(10, 3), (12, 0x0B)]) (fun t => (t.run, t.reg .rpc)) =
      some (.faulted (.readOnlyRegisterViolation .rpc) 10, 10) := by decide

/-- T-MOV1: from the first operand into the second. -/
theorem test_mov_direction :
    after (mk 10 100 0x1234 0xFFFF [(10, 9), (12, 1), (14, 2)]) (fun t => (t.reg .r00, t.reg .r01, t.reg .rpc)) =
      some (0x1234, 0x1234, 15) := by decide

/-- T-MOV3: `RPC` read as a source is the instruction's own address. -/
theorem test_mov_from_rpc :
    after (mk 10 100 0 0 [(10, 9), (12, 0x0B), (14, 1)]) (fun t => (t.reg .r00, t.reg .rpc)) = some (10, 15) := by
  decide

/-- T-LD1: the high byte is cleared. -/
theorem test_load_zero_extends :
    after (mk 10 100 0x0100 0xFFFF [(10, 1), (12, 1), (14, 2), (0x0100, 0xAB)]) (fun t => (t.reg .r01, t.reg .rpc)) =
      some (0x00AB, 15) := by decide

/-- T-LD3: the top cell is in bounds. -/
theorem test_load_top :
    after (mk 10 100 0xFFFF 0 [(10, 1), (12, 1), (14, 2), (65535, 1)]) (fun t => (t.reg .r01, t.run)) =
      some (1, .running) := by decide

/-- T-ST1: the low byte alone. -/
theorem test_store_low_byte :
    after (mk 10 100 0x12CD 0x0200 [(10, 2), (12, 1), (14, 2)])
      (fun t => (t.byte 0x0200, t.byte 0x0201, t.reg .rpc)) = some (0xCD, 0, 15) := by decide

/-- T-ST4: `RSP` may be stored; it is only read. -/
theorem test_store_rsp :
    after (mk 10 100 0 0x0300 [(10, 2), (12, 0x0C), (14, 2)]) (fun t => (t.byte 0x0300, t.run)) =
      some (0x64, .running) := by decide

/-- T-LH1: an odd address, high byte first. -/
theorem test_loadh_big_endian :
    after (mk 10 100 0x0101 0 [(10, 4), (12, 1), (14, 2), (0x0101, 0x12), (0x0102, 0x34)])
      (fun t => (t.reg .r01, t.reg .rpc)) = some (0x1234, 15) := by decide

/-- T-LH3: at 65535 no wrap but a fault. -/
theorem test_loadh_past_the_top :
    after (mk 10 100 0xFFFF 0 [(10, 4), (12, 1), (14, 2)]) (fun t => (t.run, t.reg .rpc, t.reg .r01)) =
      some (.faulted (.outOfBoundsAddress 65536) 10, 10, 0) := by decide

/-- T-SH2: the last half-word of memory. -/
theorem test_storeh_last :
    after (mk 10 100 0xABCD 0xFFFE [(10, 5), (12, 1), (14, 2)])
      (fun t => (t.byte 65534, t.byte 65535, t.run)) = some (0xAB, 0xCD, .running) := by decide

/-- T-SH3: the partial effect at 65535, no wrap to cell 0, no advance. -/
theorem test_storeh_partial :
    after (mk 10 100 0xABCD 0xFFFF [(0, 0x77), (10, 5), (12, 1), (14, 2)])
      (fun t => (t.byte 65535, t.byte 0, t.run, t.reg .rpc)) =
      some (0xAB, 0x77, .faulted (.outOfBoundsAddress 65536) 10, 10) := by decide

/-- T-AD1: the sum wraps. -/
theorem test_add_wraps :
    after (mk 20 100 0xFFFF 2 [(20, 6), (22, 1), (24, 2)]) (fun t => (t.reg .r00, t.reg .r01, t.reg .rpc)) =
      some (1, 2, 25) := by decide

/-- T-AD9: both reads precede the write, so the unknown code is the fault. -/
theorem test_add_unknown_before_read_only :
    after (mk 20 100 0 0 [(20, 6), (22, 0x0B), (23, 0x0B), (24, 0xAD)]) (fun t => t.run) =
      some (.faulted (.unknownRegister 0x0BAD) 20) := by decide

/-- T-SB1: the difference wraps. -/
theorem test_sub_wraps :
    after (mk 20 100 0 1 [(20, 7), (22, 1), (24, 2)]) (fun t => (t.reg .r00, t.reg .rpc)) = some (0xFFFF, 25) := by
  decide

/-- T-SB4: operand1 minus operand2. -/
theorem test_sub_order :
    after (mk 20 100 0x8000 0x8001 [(20, 7), (22, 1), (24, 2)]) (fun t => (t.reg .r00, t.reg .r01)) =
      some (0xFFFF, 0x8001) := by decide

/-- T-CJ3: a taken jump to the sentinel halts. -/
theorem test_cjump_to_sentinel :
    after (mk 50 100 100 0 [(50, 8), (52, 1), (54, 2)]) (fun t => (t.reg .rpc, t.run)) = some (100, .halted) := by
  decide

/-- T-CJ4: all sixteen bits are tested, and a jump not taken does not advance. -/
theorem test_cjump_not_taken :
    after (mk 50 100 20 0x0100 [(50, 8), (52, 1), (54, 2)]) (fun t => (t.reg .rpc, t.run)) =
      some (50, .running) := by decide

/-! ### The cycle, the device, the load -/

/-- T-CY3: the advance wraps. -/
theorem test_advance_wraps :
    after (mk 65531 10 0 0 [(65531, 3), (65533, 1), (65535, 1)]) (fun t => (t.reg .r00, t.reg .rpc)) =
      some (1, 0) := by decide

/-- T-CY4: the fetch faults before the illegal opcode byte is seen. -/
theorem test_fetch_past_the_top :
    after (mk 65532 10 0 0 [(65532, 0xFF)]) (fun t => t.run) =
      some (.faulted (.outOfBoundsAddress 65536) 65532) := by decide

/-- T-CY7: the device fault comes before the halt check, after the instruction. -/
theorem test_device_fault_before_halt :
    after (mkDev 10 15 0 0 [(10, 3), (12, 1), (14, 5), (0x8000, 4)]) (fun t => (t.reg .r00, t.reg .rpc, t.run)) =
      some (5, 15, .faulted (.unknownOpcodeDevice 4) 10) := by decide

/-- T-DV7: `BUFFER` with a red pixel. -/
theorem test_device_buffer :
    (deviceStep 10 (mkDev 10 100 0 0
      [(0x8000, 1), (0x8001, 1), (0x8004, 2), (0x8005, 0xF8)])).trace = [.setPixel 256 2 255 0 0] := by decide

/-- T-DV6: the channels are exact rationals. -/
theorem test_channels_exact :
    pixelCommand 0 0 0x8410 = .setPixel 0 0 (mkRat 4080 31) (mkRat 2720 21) (mkRat 4080 31) := by decide

/-- T-DV14: a device bus at 65530 faults on its colour read and emits nothing. -/
theorem test_device_past_the_top :
    (fun t : State => (t.run, t.trace)) (deviceStep 10
      { mkDev 10 100 0 0 [(65530, 1)] with cfg := { Config.default with deviceBusAddr := 65530 } }) =
      (.faulted (.outOfBoundsAddress 65536) 10, []) := by decide

/-- T-RS1: an image given as text. -/
theorem test_load_text :
    (fun s : State => (s.mem, s.reg .rpc, s.reg .rsp, s.run))
      (State.loadText Config.default true "00000011 00000000 00000001 00000000 00000101".toList) =
      ([(0, 3), (2, 1), (4, 5)], 0, 5, .running) := by decide

/-- T-RS2: a token of seven characters. -/
theorem test_load_malformed :
    (State.loadText Config.default true "00000011 0000000".toList).run =
      .loadFailed (.malformedEncoding "0000000".toList) := by decide

/-- T-E2E (S8): the loaded `SET R00 5` runs in one cycle and the run halts. -/
theorem test_end_to_end :
    after (State.loadText Config.default true "00000011 00000000 00000001 00000000 00000101".toList)
      (fun t => (t.reg .r00, t.reg .rpc, t.run, t.trace)) = some (5, 5, .halted, []) := by decide

/-! ### Witnesses: concrete states and operands that meet all hypotheses of a statement together

One theorem per statement that has hypotheses, its name the statement's after `witness_`; a conjunct or a further
theorem for every clause, at the boundary values of its range. -/

theorem witness_TokenLeftmostCharacterIsBitSeven :
    wellFormedByte "10000000".toList = true ∧ tokenValue "10000000".toList = 0x80 ∧ 0 < 8 ∧ 7 < 8 := by decide

theorem witness_DecodedBytesAreTheEncoding :
    decode [0x09, 0xFF, 0xFF, 0x00, 0x00] = .ok (.mov 0xFFFF 0x0000) ∧
    decodeWord 0x09FFFF0000 = .ok (.mov 0xFFFF 0x0000) := by decide

theorem witness_OpcodeByteAloneDecides :
    (∀ k, opcodeByte k ≠ 0x00) ∧ (∀ k, opcodeByte k ≠ 0x0A) ∧
    (mk 5 10 0 0 [(5, 0x0A)]).run = .running ∧ (mk 5 10 0 0 [(5, 0x0A)]).reg .rpc ≠ (mk 5 10 0 0 [(5, 0x0A)]).reg .rsp ∧
    fetch (mk 5 10 0 0 [(5, 0x0A)]) = .ok 0x0A00000000 ∧ (∀ k, opcodeByte k ≠ wordOpcode 0x0A00000000) := by
  refine ⟨fun k => by cases k <;> decide, fun k => by cases k <;> decide, by decide, by decide, by decide,
    fun k => by cases k <;> decide⟩

theorem witness_OperandsAreBigEndianAfterTheOpcode :
    ((mk 65531 0 0 0 [(65531, 3), (65535, 9)]).reg .rpc).toNat = 65531 ∧
    fetch (mk 65531 0 0 0 [(65531, 3), (65535, 9)]) = .ok 0x0300000009 := by decide

theorem witness_RegisterCodeReadsItsRegister :
    State.reset.cfg.codesWf ∧ (∀ r, State.reset.cfg.code r ≠ 0x0000) ∧ (∀ r, State.reset.cfg.code r ≠ 0xFFFF) :=
  ⟨by decide, fun r => by cases r <;> decide, fun r => by cases r <;> decide⟩

theorem witness_ProtectedWriteSparesRpcAndRsp :
    State.reset.cfg.codesWf ∧ writable .r00 ∧ writable .r09 ∧ ¬ writable .rpc ∧ ¬ writable .rsp ∧
    (∀ r, State.reset.cfg.code r ≠ 0x0000) := by
  unfold writable; exact ⟨by decide, by decide, by decide, by decide, by decide, fun r => by cases r <;> decide⟩

theorem witness_SetWritesItsLiteral :
    State.reset.cfg.resolve 0x000A = some .r09 ∧ writable .r09 ∧
    State.reset.cfg.resolve 0x000B = some .rpc ∧ ¬ writable .rpc ∧ State.reset.cfg.resolve 0x0000 = none := by
  unfold writable; decide

/-- `MOV RPC R00` in one state, `MOV R02 R02` in another: a source that is `RPC`, and one that is the destination. -/
theorem witness_MovCopiesFirstIntoSecond :
    State.reset.cfg.resolve 0x000B = some .rpc ∧ State.reset.cfg.resolve 0x0001 = some .r00 ∧ writable .r00 ∧
    State.reset.cfg.resolve 0x0003 = some .r02 ∧ writable .r02 := by
  unfold writable; decide

/-- The address 65535 for `LOAD` and `STORE`, in the state `mk 10 100 0xFFFF 0xFFFF []`. -/
theorem witness_LoadZeroExtendsTheByte :
    (mk 10 100 0xFFFF 0 []).cfg.resolve 0x0001 = some .r00 ∧ (mk 10 100 0xFFFF 0 []).cfg.resolve 0x0002 = some .r01 ∧
    writable .r01 ∧ ((mk 10 100 0xFFFF 0 []).reg .r00).toNat = 65535 := by
  unfold writable; decide

theorem witness_StoreWritesTheLowByte :
    (mk 10 100 0x12FF 0xFFFF []).cfg.resolve 0x0001 = some .r00 ∧
    (mk 10 100 0x12FF 0xFFFF []).cfg.resolve 0x0002 = some .r01 ∧
    ((mk 10 100 0x12FF 0xFFFF []).reg .r01).toNat = 65535 := by decide

/-- Both clauses at their common boundary: address 65534, and address 65535. -/
theorem witness_LoadhReadsTwoBytesHighFirst :
    (mk 10 100 0xFFFE 0 []).cfg.resolve 0x0001 = some .r00 ∧ (mk 10 100 0xFFFE 0 []).cfg.resolve 0x0002 = some .r01 ∧
    writable .r01 ∧ ((mk 10 100 0xFFFE 0 []).reg .r00).toNat = 65534 ∧
    (mk 10 100 0xFFFF 0 []).cfg.resolve 0x0001 = some .r00 ∧ ((mk 10 100 0xFFFF 0 []).reg .r00).toNat = 65535 := by
  unfold writable; decide

theorem witness_StorehWritesTwoBytesHighFirst :
    (mk 10 100 1 0xFFFE []).cfg.resolve 0x0001 = some .r00 ∧ (mk 10 100 1 0xFFFE []).cfg.resolve 0x0002 = some .r01 ∧
    ((mk 10 100 1 0xFFFE []).reg .r01).toNat = 65534 ∧ ((mk 10 100 1 0xFFFF []).reg .r01).toNat = 65535 := by decide

theorem witness_AddWrapsModulo :
    (mk 20 100 0xFFFF 2 []).cfg.resolve 0x0001 = some .r00 ∧ (mk 20 100 0xFFFF 2 []).cfg.resolve 0x0002 = some .r01 ∧
    writable .r00 := by
  unfold writable; decide

theorem witness_SubWrapsModulo :
    (mk 20 100 0 1 []).cfg.resolve 0x0001 = some .r00 ∧ (mk 20 100 0 1 []).cfg.resolve 0x0002 = some .r01 ∧
    writable .r00 := by
  unfold writable; decide

theorem witness_CjumpJumpsIffZero :
    (mk 50 100 20 0 []).cfg.resolve 0x0001 = some .r00 ∧ (mk 50 100 20 0 []).cfg.resolve 0x0002 = some .r01 ∧
    ((mk 50 100 20 0 []).reg .r01).toNat = 0 ∧ ((mk 50 100 20 0x0100 []).reg .r01).toNat ≠ 0 ∧
    ((mk 50 100 20 0xFFFF []).reg .r01).toNat = 65535 := by decide

theorem witness_LoadhReturnsWhatStorehStored :
    (mk 10 100 0xABCD 0xFFFE []).cfg.resolve 0x0001 = some .r00 ∧
    (mk 10 100 0xABCD 0xFFFE []).cfg.resolve 0x0002 = some .r01 ∧
    (mk 10 100 0xABCD 0xFFFE []).cfg.resolve 0x0003 = some .r02 ∧ writable .r02 ∧ RegName.r01 ≠ .rpc ∧
    ((mk 10 100 0xABCD 0xFFFE []).reg .r01).toNat < 65535 := by
  unfold writable; decide

/-- `ADD RPC 0x0BAD`: the second operand is the first unknown one; and a `LOADH` with an unknown destination whose
address is 65534. -/
theorem witness_FirstUnknownRegisterFaults :
    (Instr.add 0x000B 0x0BAD).registerOperands.find?
      (fun o => ((mk 20 100 0 0 []).cfg.resolve o).isNone) = some 0x0BAD ∧
    (Instr.loadh 0x0001 0x0BAD).registerOperands.find?
      (fun o => ((mk 20 100 0xFFFE 0 []).cfg.resolve o).isNone) = some 0x0BAD ∧
    (∀ a b q, Instr.loadh 0x0001 0x0BAD = .loadh a b → (mk 20 100 0xFFFE 0 []).cfg.resolve a = some q →
      ((mk 20 100 0xFFFE 0 []).reg q).toNat ≠ 65535) := by
  refine ⟨by decide, by decide, fun a b q h hq => ?_⟩
  cases h; cases hq; simp [mk, State.reg, RegFile.get]

/-- `ADD RPC R00`, and a `LOADH` into `RSP` from 65534. -/
theorem witness_ReadOnlyDestinationFaults :
    (Instr.add 0x000B 0x0001).writeOperand = some 0x000B ∧
    (mk 20 100 5 0 []).cfg.resolve 0x000B = some .rpc ∧ ¬ writable .rpc ∧
    (∀ o ∈ (Instr.add 0x000B 0x0001).registerOperands, (mk 20 100 5 0 []).cfg.resolve o ≠ none) ∧
    (∀ a b q, Instr.add 0x000B 0x0001 = .loadh a b → (mk 20 100 5 0 []).cfg.resolve a = some q →
      ((mk 20 100 5 0 []).reg q).toNat ≠ 65535) ∧
    (Instr.loadh 0x0001 0x000C).writeOperand = some 0x000C ∧
    (mk 20 100 0xFFFE 0 []).cfg.resolve 0x000C = some .rsp ∧ ¬ writable .rsp ∧
    (∀ o ∈ (Instr.loadh 0x0001 0x000C).registerOperands, (mk 20 100 0xFFFE 0 []).cfg.resolve o ≠ none) ∧
    (∀ a b q, Instr.loadh 0x0001 0x000C = .loadh a b → (mk 20 100 0xFFFE 0 []).cfg.resolve a = some q →
      ((mk 20 100 0xFFFE 0 []).reg q).toNat ≠ 65535) := by
  unfold writable
  refine ⟨by decide, by decide, by decide, fun o ho => ?_, (fun a b q h _ => by cases h), by decide, by decide,
    by decide, fun o ho => ?_, fun a b q h hq => ?_⟩
  · rcases List.mem_pair.1 ho with rfl | rfl <;> decide
  · rcases List.mem_pair.1 ho with rfl | rfl <;> decide
  · cases h; cases hq; simp [mk, State.reg, RegFile.get]

/-- A legal `ADD`, a legal `STOREH` to 65535 and a legal `LOADH` from 65535: the statement's outcomes. -/
theorem witness_WellFormedFaultsOnlyOutOfBounds :
    let s := mk 10 100 0xFFFF 0xFFFF []
    (Instr.add 0x0001 0x000B).wellFormed s.cfg = true ∧ (Instr.storeh 0x0001 0x0002).wellFormed s.cfg = true ∧
    (Instr.loadh 0x0001 0x0002).wellFormed s.cfg = true ∧ s.run = .running ∧
    (∃ t, exec (.add 0x0001 0x000B) s = .next t ∧ t.run = .running) ∧
    (∃ t, exec (.storeh 0x0001 0x0002) s = .next t ∧ t.run = .faulted (.outOfBoundsAddress 65536) 10) ∧
    (∃ t, exec (.loadh 0x0001 0x0002) s = .next t ∧ t.run = .faulted (.outOfBoundsAddress 65536) 10) :=
  ⟨by decide, by decide, by decide, rfl, next_of (by decide), next_of (by decide), next_of (by decide)⟩

/-- A fault that changes nothing, and the partial effect of `STOREH`. -/
theorem witness_FaultLeavesNoPartialEffectButStoreh :
    (mk 10 100 0x0100 0xFFFF []).run = .running ∧
    (∃ t, exec (.set 0x0BAD 1) (mk 10 100 0x0100 0xFFFF []) = .next t ∧
      t.run = .faulted (.unknownRegister 0x0BAD) 10) ∧
    (∃ t, exec (.storeh 0x0001 0x0002) (mk 10 100 0x0100 0xFFFF []) = .next t ∧
      t.run = .faulted (.outOfBoundsAddress 65536) 10 ∧ t.byte 65535 = 1) :=
  ⟨rfl, next_of (by decide), next_of (by decide)⟩

theorem witness_RegisterWritersFrame :
    (Instr.mov 0x000B 0x0001).writeOperand = some 0x0001 ∧ State.reset.cfg.resolve 0x0001 = some .r00 ∧
    (∃ t, exec (.mov 0x000B 0x0001) State.reset = .next t ∧ t.run = .running) ∧
    (Instr.mov 0x000B 0x0BAD).writeOperand = some 0x0BAD ∧ State.reset.cfg.resolve 0x0BAD = none ∧
    (∃ t, exec (.mov 0x000B 0x0BAD) State.reset = .next t ∧ t.run ≠ .running) :=
  ⟨rfl, by decide, next_of (by decide), rfl, by decide, next_of (by decide)⟩

theorem witness_StoresFrame :
    (∃ t, exec (.store 0x0001 0x0002) (mk 10 100 7 0xFFFF []) = .next t ∧ t.run = .running) ∧
    (mk 10 100 7 0xFFFF []).regGet 0x0002 = .ok 0xFFFF ∧
    (∃ t, exec (.storeh 0x0001 0x0002) (mk 10 100 7 0xFFFE []) = .next t ∧ t.run = .running) ∧
    (mk 10 100 7 0xFFFE []).regGet 0x0002 = .ok 0xFFFE ∧
    (∃ t, exec (.storeh 0x0001 0x0BAD) (mk 10 100 7 0 []) = .next t ∧ t.run ≠ .running) ∧
    (mk 10 100 7 0 []).regGet 0x0BAD = .error (.unknownRegister 0x0BAD) :=
  ⟨next_of (by decide), by decide, next_of (by decide), by decide, next_of (by decide), by decide⟩

theorem witness_CjumpFrame :
    (∃ t, exec (.cjump 0x0001 0x0002) (mk 50 100 20 0 []) = .next t ∧ t.reg .rpc = 20) ∧
    (∃ t, exec (.cjump 0x0001 0x0002) (mk 50 100 20 1 []) = .next t ∧ t.reg .rpc = 50) :=
  ⟨next_of (by decide), next_of (by decide)⟩

/-- A faulting instruction, an advancing one at 65531, and a taken jump. -/
theorem witness_EachInstructionLeavesRpcAsRuled :
    (mk 65531 0 20 0 []).run = .running ∧
    (∃ t, exec (.set 0x0BAD 1) (mk 65531 0 20 0 []) = .next t ∧ t.run ≠ .running) ∧
    (∃ t, exec (.set 0x0001 1) (mk 65531 0 20 0 []) = .next t ∧ t.run = .running ∧ t.reg .rpc = 0) ∧
    (∀ a b, Instr.set 0x0001 1 ≠ .cjump a b) ∧
    (∃ t, exec (.cjump 0x0001 0x0002) (mk 65531 0 20 0 []) = .next t ∧ t.run = .running ∧ t.reg .rpc = 20) :=
  ⟨rfl, next_of (by decide), next_of (by decide), (fun _ _ h => by cases h), next_of (by decide)⟩

/-- `SET R00 5` at the last address from which five bytes can be fetched, and a `SET` that faults. -/
theorem witness_StepRunsTheDecodedInstruction :
    let s := mk 65531 10 0 0 [(65531, 3), (65533, 1), (65535, 5)]
    let u := mk 10 15 0 0 [(10, 3)]
    s.run = .running ∧ s.reg .rpc ≠ s.reg .rsp ∧ (s.reg .rpc).toNat = 65531 ∧
    decode [s.byte 65531, s.byte 65532, s.byte 65533, s.byte 65534, s.byte 65535] = .ok (.set 0x0001 0x0005) ∧
    (∃ t, exec (.set 0x0001 0x0005) s = .next t ∧ t.run = .running) ∧
    u.run = .running ∧ u.reg .rpc ≠ u.reg .rsp ∧ (u.reg .rpc).toNat = 10 ∧
    decode [u.byte 10, u.byte 11, u.byte 12, u.byte 13, u.byte 14] = .ok (.set 0x0000 0x0000) ∧
    (∃ t, exec (.set 0x0000 0x0000) u = .next t ∧ t.run ≠ .running) :=
  ⟨rfl, by decide, by decide, by decide, next_of (by decide), rfl, by decide, by decide, by decide, next_of (by decide)⟩

/-- Address 65532, the first that faults, and 65535. -/
theorem witness_FetchPastTheTopFaults :
    (mk 65532 10 0 0 []).run = .running ∧ (mk 65532 10 0 0 []).reg .rpc ≠ (mk 65532 10 0 0 []).reg .rsp ∧
    ((mk 65532 10 0 0 []).reg .rpc).toNat = 65532 ∧ ((mk 65535 10 0 0 []).reg .rpc).toNat = 65535 := by decide

theorem witness_BoundaryHaltExecutesNothing :
    (mk 7 7 0 0 [(7, 3)]).run = .running ∧ (mk 7 7 0 0 [(7, 3)]).reg .rpc = (mk 7 7 0 0 [(7, 3)]).reg .rsp := by decide

/-- One step that ends at the sentinel, and one that does not. -/
theorem witness_HaltsExactlyAtTheSentinel :
    (∃ t, step (mk 10 15 0 0 [(10, 3), (12, 1)]) = .next t ∧ t.run = .halted) ∧
    (∃ t, step (mk 10 16 0 0 [(10, 3), (12, 1)]) = .next t ∧ t.run = .running) ∧
    (mk 10 15 0 0 [(10, 3), (12, 1)]).run = .running :=
  ⟨next_of (by decide), next_of (by decide), rfl⟩

theorem witness_HaltedRunStaysAsItIs : ((mk 15 15 0 0 []).setRun .halted).run = .halted := rfl

theorem witness_FaultedRunPerformsNoCycle :
    ((mk 10 15 0 0 []).setRun (.faulted (.unknownOpcodeCpu 0) 10)).run = .faulted (.unknownOpcodeCpu 0) 10 ∧
    (State.load Config.default true ["2".toList]).run = .loadFailed (.malformedEncoding "2".toList) := by decide

theorem witness_EveryUnendedStateHasANextState :
    State.reset.run = .running ∧ ((mk 15 15 0 0 []).setRun .halted).run = .halted ∧
    step ((mk 10 15 0 0 []).setRun (.faulted (.unknownOpcodeCpu 0) 10)) = .fault (.runFaulted (.unknownOpcodeCpu 0) 10) ∧
    step (State.load Config.default true ["2".toList]) = .fault (.loadFailed (.malformedEncoding "2".toList)) :=
  ⟨rfl, rfl, rfl, rfl⟩

/-- An instruction's fault, and a device fault in a cycle whose instruction advanced `RPC` to 15. -/
theorem witness_FaultReportsTheCyclesAddress :
    (∃ t, step (mk 10 15 0 0 []) = .next t ∧ t.run = .faulted (.unknownOpcodeCpu 0) 10) ∧
    (∃ t, step (mkDev 10 15 0 0 [(10, 3), (12, 1), (0x8000, 4)]) = .next t ∧
      t.run = .faulted (.unknownOpcodeDevice 4) 10) ∧
    (mkDev 10 15 0 0 [(10, 3), (12, 1), (0x8000, 4)]).run = .running :=
  ⟨next_of (by decide), next_of (by decide), rfl⟩

/-- The device off with a command on its bus; and the device on with an idle byte. -/
theorem witness_DeviceStepIsSkippedOrIdle :
    (mk 10 15 0 0 [(0x8000, 2)]).enableDevice = false ∧ (mkDev 10 15 0 0 []).enableDevice = true ∧
    (mkDev 10 15 0 0 []).cfg.devop ((mkDev 10 15 0 0 []).byte (mkDev 10 15 0 0 []).cfg.deviceBusAddr.toNat) = .idle := by
  decide

/-- A device bus at 65529, the highest address that leaves room for its payload. -/
theorem witness_BufferEmitsSetPixel :
    let s := { mkDev 10 15 0 0 [(65529, 1), (65535, 0xFF)] with cfg := { Config.default with deviceBusAddr := 65529 } }
    s.enableDevice = true ∧ s.cfg.busWf ∧ s.cfg.devop (s.byte s.cfg.deviceBusAddr.toNat) = .buffer := by decide

/-- A device bus at 65530, the first address that leaves no room for the payload, and at 65535; the instruction is
`SET R00 5`. -/
theorem witness_BufferPastTheTopFaultsAfterTheInstruction :
    let c := { Config.default with deviceBusAddr := 65530 }
    let d := { Config.default with deviceBusAddr := 65535 }
    let s := { mkDev 10 15 0 0 [(10, 3), (12, 1), (14, 5), (65530, 1)] with cfg := c }
    let u := { mkDev 10 15 0 0 [(10, 3), (12, 1), (14, 5), (65535, 1)] with cfg := d }
    s.run = .running ∧ s.reg .rpc ≠ s.reg .rsp ∧ s.nextInstr = some (.set 0x0001 0x0005) ∧
    (∃ t, exec (.set 0x0001 0x0005) s = .next t ∧ t.run = .running ∧ t.enableDevice = true ∧
      t.cfg.deviceBusAddr.toNat = 65530 ∧ t.cfg.devop (t.byte t.cfg.deviceBusAddr.toNat) = .buffer) ∧
    u.run = .running ∧ u.reg .rpc ≠ u.reg .rsp ∧ u.nextInstr = some (.set 0x0001 0x0005) ∧
    (∃ t, exec (.set 0x0001 0x0005) u = .next t ∧ t.run = .running ∧ t.enableDevice = true ∧
      t.cfg.deviceBusAddr.toNat = 65535 ∧ t.cfg.devop (t.byte t.cfg.deviceBusAddr.toNat) = .buffer) :=
  ⟨rfl, by decide, by decide, next_of (by decide), rfl, by decide, by decide, next_of (by decide)⟩

/-- A device bus at 65535: `DRAW` and `CLEAR` read no payload. -/
theorem witness_DrawAndClearEmitTheirCommand :
    let c := { Config.default with deviceBusAddr := 65535 }
    let s := { mkDev 10 15 0 0 [(65535, 2)] with cfg := c }
    let u := { mkDev 10 15 0 0 [(65535, 3)] with cfg := c }
    s.enableDevice = true ∧ s.cfg.devop (s.byte s.cfg.deviceBusAddr.toNat) = .draw ∧
    u.enableDevice = true ∧ u.cfg.devop (u.byte u.cfg.deviceBusAddr.toNat) = .clear := by decide

/-- `STORE` of 4 to the device bus: the byte is unknown after the instruction and was idle before it. -/
theorem witness_UnknownDeviceByteFaultsAfterTheInstruction :
    let s := mkDev 10 15 4 0x8000 [(10, 2), (12, 1), (14, 2)]
    s.run = .running ∧ s.reg .rpc ≠ s.reg .rsp ∧ s.nextInstr = some (.store 0x0001 0x0002) ∧
    s.cfg.devop (s.byte s.cfg.deviceBusAddr.toNat) = .idle ∧
    (∃ t, exec (.store 0x0001 0x0002) s = .next t ∧ t.run = .running ∧ t.enableDevice = true ∧
      t.cfg.devop (t.byte t.cfg.deviceBusAddr.toNat) = .unknown) :=
  ⟨rfl, by decide, by decide, by decide, next_of (by decide)⟩

/-- Two states that differ in a register and in the cells just outside the seven. -/
theorem witness_DeviceStepOnlyReadsSevenCells :
    let s := mkDev 10 15 1 0 [(0x7FFF, 1), (0x8000, 1), (0x8007, 1)]
    let u := mkDev 10 15 2 0 [(0x8000, 1)]
    s ≠ u ∧ s.cfg = u.cfg ∧ s.enableDevice = u.enableDevice ∧ s.cfg.busWf ∧ s.run = .running ∧ u.run = .running ∧
    (∀ j, j < 7 → s.byte (s.cfg.deviceBusAddr.toNat + j) = u.byte (s.cfg.deviceBusAddr.toNat + j)) := by decide

theorem witness_TraceGrowsByAtMostOneCommand :
    ∃ t, step (mkDev 10 15 0 0 [(10, 3), (12, 1), (0x8000, 2)]) = .next t ∧ t.trace = [.draw] :=
  next_of (by decide)

theorem witness_DisabledDeviceRunsTheSame :
    (mkDev 10 15 0 0 [(10, 3), (12, 1), (0x8000, 2)]).cfg.busWf ∧
    (∃ t, runSteps 2 (mkDev 10 15 0 0 [(10, 3), (12, 1), (0x8000, 2)]) = .next t ∧ t.trace = [.draw] ∧
      t.run = .halted ∧ ∀ d a, t.run ≠ .faulted (.unknownOpcodeDevice d) a) := by
  obtain ⟨t, h1, h2, h3⟩ : ∃ t, runSteps 2 (mkDev 10 15 0 0 [(10, 3), (12, 1), (0x8000, 2)]) = .next t ∧
      t.trace = [.draw] ∧ t.run = .halted := next_of (by decide)
  exact ⟨by decide, t, h1, h2, h3, fun d a h => by rw [h3] at h; cases h⟩

/-- A `CJUMP` that is not taken while `DRAW` stands on the device bus: the commands of a step are `[draw]`. -/
theorem witness_NonTakenJumpRepeatsForEver :
    let s := mkDev 50 100 20 1 [(50, 8), (52, 1), (54, 2), (0x8000, 2)]
    s.run = .running ∧ s.reg .rpc ≠ s.reg .rsp ∧ s.nextInstr = some (.cjump 0x0001 0x0002) ∧
    s.cfg.resolve 0x0001 = some .r00 ∧ s.cfg.resolve 0x0002 = some .r01 ∧ (s.reg .r01).toNat ≠ 0 ∧
    deviceStep (s.reg .rpc) s = { s with trace := s.trace ++ [.draw] } := by decide

theorem witness_SentinelAndConfigurationAreConstant :
    ∃ t, runSteps 1 (mkDev 10 100 0 0 [(10, 3), (12, 1), (14, 9)]) = .next t ∧ t.reg .r00 = 9 ∧ t.reg .rsp = 100 :=
  next_of (by decide)

/-- A `STOREH` that changes both bytes it addresses, and a `SET` that changes its register. -/
theorem witness_OnlyTheFetchedInstructionWrites :
    let s := mk 10 100 0x0102 0xFFFE [(10, 5), (12, 1), (14, 2)]
    let u := mk 10 100 0 0 [(10, 3), (12, 1), (14, 9)]
    (∃ t, step s = .next t ∧ t.byte 65534 ≠ s.byte 65534 ∧ t.byte 65535 ≠ s.byte 65535) ∧
    (∃ t, step u = .next t ∧ RegName.r00 ≠ .rpc ∧ t.reg .r00 ≠ u.reg .r00) :=
  ⟨next_of (by decide), next_of (by decide)⟩

/-- A state of the invariant whose step stores, and one whose step faults. -/
theorem witness_StepKeepsTheInvariant :
    (mk 10 100 0x0102 0xFFFE [(10, 5), (12, 1), (14, 2)]).Inv ∧
    (∃ t, step (mk 10 100 0x0102 0xFFFE [(10, 5), (12, 1), (14, 2)]) = .next t ∧ t.byte 65535 = 2) ∧
    (mk 10 100 0 0 []).Inv ∧
    (∃ t, step (mk 10 100 0 0 []) = .next t ∧ t.run = .faulted (.unknownOpcodeCpu 0) 10) :=
  ⟨⟨by decide, trivial⟩, next_of (by decide), ⟨by decide, trivial⟩, next_of (by decide)⟩

/-- The two memories come from the same writes in either order. -/
theorem witness_CanonicalMemoryIsUnique :
    let m := (Memory.setByte [] 5 1).setByte 65535 2
    let n := ((Memory.setByte [] 65535 2).setByte 0 0).setByte 5 1
    m.wf ∧ n.wf ∧ (∀ a, m.byteAt a = n.byteAt a) :=
  ⟨by decide, by decide, fun _ => rfl⟩

theorem witness_LoadFillsMemoryAndSetsRsp :
    (∀ t ∈ ["00000011".toList, "11111111".toList], wellFormedByte t = true) ∧
    ["00000011".toList, "11111111".toList].length ≤ 65536 ∧
    ["00000011".toList, "11111111".toList][1]? = some "11111111".toList ∧ writable .r09 ∧
    (∀ t ∈ List.replicate 65536 "00000001".toList, wellFormedByte t = true) ∧
    (List.replicate 65536 "00000001".toList).length = 65536 := by
  unfold writable
  refine ⟨by decide, by decide, by decide, by decide, fun t h => ?_, List.length_replicate⟩
  rw [List.eq_of_mem_replicate h]; decide

theorem witness_MalformedTokenAbortsTheLoad :
    (∀ u ∈ ["00000011".toList], wellFormedByte u = true) ∧ ["00000011".toList].length ≤ 65536 ∧
    wellFormedByte "0000000".toList = false ∧
    (∀ u ∈ List.replicate 65536 "00000001".toList, wellFormedByte u = true) ∧
    (List.replicate 65536 "00000001".toList).length = 65536 := by
  refine ⟨by decide, by decide, by decide, fun t h => ?_, List.length_replicate⟩
  rw [List.eq_of_mem_replicate h]; decide

/-- The first 65537 tokens are well-formed and a malformed one follows them. -/
theorem witness_TooLongImageIsRefused :
    (∀ t ∈ (List.replicate 65537 "00000001".toList ++ ["2".toList]).take 65537, wellFormedByte t = true) ∧
    65536 < (List.replicate 65537 "00000001".toList ++ ["2".toList]).length ∧ wellFormedByte "2".toList = false := by
  refine ⟨fun t h => ?_, by rw [List.length_append, List.length_replicate]; decide, by decide⟩
  rw [List.take_left' List.length_replicate] at h
  rw [List.eq_of_mem_replicate h]; decide

/-- The address 0 of the reset state, and 65531. -/
theorem witness_PlacedWordRunsNext :
    (State.reset.reg .rpc).toNat = 0 ∧ ((mk 65531 65531 0 0 []).reg .rpc).toNat = 65531 ∧
    ((mk 65531 65531 0 0 []).withFetchWord 40 (encodeWord (.set 0x0001 0x0005)).toNat).nextInstr =
      some (.set 0x0001 0x0005) := by decide

end Sys2Proof.Tests
end

