-- ==== Sys2Proof/Proofs/Codec.lean ====
section
/-! PROOFS. The codec's two statements (spec/00_scope.md R2 and R5), from the laws of Sys2Proof/Laws/Codec.lean. -/

namespace Sys2Proof

/-! ### Round trips and wraparound -/

theorem byteToDec_decToByte {n : Nat} (h : n ≤ 255) : byteToDec (decToByte n) = n := by
  rw [byteToDec, toNat_decToByte]
  exact Nat.mod_eq_of_lt (by omega)

theorem halfWordToDec_decToHalfWord {n : Nat} (h : n ≤ 65535) : halfWordToDec (decToHalfWord n) = n := by
  rw [halfWordToDec, toNat_decToHalfWord]
  exact Nat.mod_eq_of_lt (by omega)

/-- Numbers a multiple of 256 apart are one byte: the wraparound of R5 at every number. -/
theorem decToByte_add_256 (n : Nat) : decToByte (n + 256) = decToByte n := by
  apply BitVec.eq_of_toNat_eq
  rw [toNat_decToByte, toNat_decToByte, Nat.add_mod_right]

/-- Numbers a multiple of 65536 apart are one half-word: the wraparound of R5 at every number. -/
theorem decToHalfWord_add_65536 (n : Nat) : decToHalfWord (n + 65536) = decToHalfWord n := by
  apply BitVec.eq_of_toNat_eq
  rw [toNat_decToHalfWord, toNat_decToHalfWord, Nat.add_mod_right]

/-- Settles O1: the round trips hold because the codec's remainder is the number itself on its range, and the
wraparounds are the codec's periodicity at 0. -/
theorem codecRoundTripsAndWraps : Obligations.CodecRoundTripsAndWraps :=
  ⟨fun _ h => byteToDec_decToByte h, fun _ h => halfWordToDec_decToHalfWord h,
    decToByte_add_256 0, decToHalfWord_add_65536 0⟩

/-! ### The two bytes of a half-word -/

/-- Settles O2: `hw`, `hi` and `lo` as numbers, and the half-word put together again from its two bytes. -/
theorem halfWordIsHighThenLowByte : Obligations.HalfWordIsHighThenLowByte :=
  ⟨toNat_hw, fun v => ⟨toNat_hi v, toNat_lo v, hw_hi_lo v⟩⟩

end Sys2Proof
end

/-! PROOFS. The statements of spec/10_state.md: what an instruction and a step write and what they leave alone, the
invariant every step keeps, the one canonical memory, and the register codes. The effects of `exec` are read off by
component once (from `Effect`), the rest of a cycle is said to write only the run state and the trace, and each
statement is put together from these. -/

namespace Sys2Proof

/-! ### Register codes -/

/-- Under pairwise distinct codes `Resolve` inverts the code table (R11, R12). -/
theorem Config.resolve_code {cfg : Config} (h : cfg.codesWf) (r : RegName) : cfg.resolve (cfg.code r) = some r := by
  cases hq : cfg.resolve (cfg.code r) with
  | none => exact absurd rfl (Config.resolve_eq_none.1 hq r)
  | some q =>
    have hcode : cfg.code q = cfg.code r := Config.code_of_resolve hq
    rw [List.inj_on_of_nodup_map h (mem_allRegs q) (mem_allRegs r) hcode]

/-! ### The storing instructions -/

/-- The number of cells a storing instruction writes at the address of operand2 (R91, R93). -/
def Instr.storeSize : Instr → Option Nat
  | .store _ _ => some 1
  | .storeh _ _ => some 2
  | .load _ _ | .set _ _ | .loadh _ _ | .add _ _ | .sub _ _ | .cjump _ _ | .mov _ _ => none

/-- Only `STORE` and `STOREH` have a size, one cell and two. -/
theorem Instr.storeSize_eq_some {i : Instr} {n : Nat} :
    i.storeSize = some n ↔ i = .store i.op1 i.op2 ∧ n = 1 ∨ i = .storeh i.op1 i.op2 ∧ n = 2 := by
  cases i <;> simp [Instr.storeSize, Instr.op1, Instr.op2, eq_comm]

/-- An instruction with a destination register stores nothing. -/
theorem Instr.storeSize_of_writeOperand {i : Instr} {c : HalfWord} (h : i.writeOperand = some c) :
    i.storeSize = none := by
  cases i with
  | store a b => cases h
  | storeh a b => cases h
  | load a b | set a b | loadh a b | add a b | sub a b | cjump a b | mov a b => rfl

/-- A storing instruction has no destination register. -/
theorem Instr.writeOperand_of_storeSize {i : Instr} {n : Nat} (h : i.storeSize = some n) :
    i.writeOperand = none := by
  cases hc : i.writeOperand with
  | none => rfl
  | some c => rw [Instr.storeSize_of_writeOperand hc] at h; cases h

end Sys2Proof

namespace Sys2Proof.Machine

/-! ### The protected register operations -/

theorem State.regGet_some {s : State} {c : HalfWord} {r : RegName} (h : s.cfg.resolve c = some r) :
    s.regGet c = .ok (s.reg r) := by
  simp [State.regGet, h]

theorem State.regGet_none {s : State} {c : HalfWord} (h : s.cfg.resolve c = none) :
    s.regGet c = .error (.unknownRegister c) := by
  simp [State.regGet, h]

theorem State.regSet_writable {s : State} {c : HalfWord} {r : RegName} (v : HalfWord)
    (h : s.cfg.resolve c = some r) (hr : writable r) : s.regSet c v = .ok (s.setReg r v) := by
  simp [State.regSet, h, hr.1, hr.2]

theorem State.regSet_readOnly {s : State} {c : HalfWord} {r : RegName} (v : HalfWord)
    (h : s.cfg.resolve c = some r) (hr : ¬ writable r) :
    s.regSet c v = .error (.readOnlyRegisterViolation r) := by
  simp [State.regSet, h, (not_writable_iff r).1 hr]

theorem State.regSet_none {s : State} {c : HalfWord} (v : HalfWord) (h : s.cfg.resolve c = none) :
    s.regSet c v = .error (.unknownRegister c) := by
  simp [State.regSet, h]

/-- The write by name changes its register and nothing else (R16). -/
theorem regsSameBut_setReg (s : State) (r : RegName) (v : HalfWord) : regsSameBut [r] s (s.setReg r v) := by
  intro q hq
  rw [State.setReg_reg, if_neg (by simpa using hq)]

/-- The same register file is the same at every register. -/
theorem regsSameBut_of_regs {s t : State} (h : t.regs = s.regs) (rs : List RegName) : regsSameBut rs s t :=
  fun r _ => congrArg (RegFile.get · r) h

/-! ### The effects of an instruction, by component -/

/-- A cell that a write changed is one of its `n` cells. -/
theorem Memory.mem_range_of_write_ne {m : Memory} {a n v x : Nat}
    (h : (m.write a n v).1.byteAt x ≠ m.byteAt x) : a ≤ x ∧ x < a + n := by
  by_contra hout
  exact h (m.byteAt_write_outside a n v x (by omega))

/-- The advance from a state with the same `RPC` (R74). -/
theorem advanced_advance {s u : State} (h : u.reg .rpc = s.reg .rpc) : advanced s u.advance := by
  simp [advanced, halfWordToDec, h]

section Effects

variable {i : Instr} {s t : State}

/-- No instruction touches the trace, `ENABLE_DEVICE` or the configuration (R17). -/
theorem Effect.surround (h : Effect i s t) : surroundSame s t := by
  cases h <;> exact ⟨rfl, rfl, rfl⟩

/-- A register other than `RPC` changes only as the destination operand's, and is never `RSP` (R15, R17). -/
theorem Effect.reg_changed (h : Effect i s t) {q : RegName} (hq : q ≠ .rpc) (hne : t.reg q ≠ s.reg q) :
    q ≠ .rsp ∧ ∃ c, i.writeOperand = some c ∧ s.cfg.resolve c = some q := by
  cases h with
  | wroteReg c r v hc hr hpc hsp =>
    have hqr : q = r := by
      by_contra h
      exact hne (by simp [hq, h])
    exact hqr ▸ ⟨hsp, c, hc, hr⟩
  | stored | jumped => exact absurd (by simp [hq]) hne
  | storedPart | stayed | unknownReg | roDest | loadhTop => exact absurd rfl hne

theorem Effect.rsp (h : Effect i s t) : t.reg .rsp = s.reg .rsp :=
  by_contra fun hne => (h.reg_changed (by decide) hne).1 rfl

/-- An instruction with no destination operand changes no register but `RPC` (R17). -/
theorem Effect.regsSame_of_noDestination (h : Effect i s t) (hw : i.writeOperand = none) :
    regsSameBut [.rpc] s t := by
  intro q hq
  by_contra hne
  obtain ⟨-, c, hc, -⟩ := h.reg_changed (List.ne_of_not_mem_cons hq) hne
  rw [hw] at hc; cases hc

/-- An instruction whose destination operand is no register changes no register: it faults (R57, R134). -/
theorem Effect.regs_of_unknownDestination (h : Effect i s t) {c : HalfWord} (hc : i.writeOperand = some c)
    (hn : s.cfg.resolve c = none) : t.regs = s.regs := by
  cases h with
  | wroteReg c' r v hc' hr =>
    rw [hc, Option.some.injEq] at hc'
    rw [← hc', hn] at hr; cases hr
  | stored r n v hi =>
    rw [Instr.writeOperand_of_storeSize (Instr.storeSize_eq_some.2 hi)] at hc; cases hc
  | jumped r q hi => rw [hi] at hc; cases hc
  | storedPart | stayed | unknownReg | roDest | loadhTop => rfl

/-- A byte changes only by a store, as one of the cells at the value of operand2's register (R17, R91, R93). -/
theorem Effect.byte_changed (h : Effect i s t) {a : Nat} (hne : t.byte a ≠ s.byte a) :
    ∃ r n, i.storeSize = some n ∧ s.cfg.resolve i.op2 = some r ∧
      (s.reg r).toNat ≤ a ∧ a < (s.reg r).toNat + n := by
  cases h with
  | stored r n v hi hr => exact ⟨r, n, Instr.storeSize_eq_some.2 hi, hr, Memory.mem_range_of_write_ne hne⟩
  | storedPart r v hi hr =>
    exact ⟨r, 2, Instr.storeSize_eq_some.2 (.inr ⟨hi, rfl⟩), hr, Memory.mem_range_of_write_ne hne⟩
  | wroteReg | jumped | stayed | unknownReg | roDest | loadhTop => exact absurd rfl hne

/-- An instruction that is no store changes no byte of memory (R17). -/
theorem Effect.memSame_of_noStore (h : Effect i s t) (hi : i.storeSize = none) : memSame s t := by
  intro a
  by_contra hne
  obtain ⟨r, n, hn, -⟩ := h.byte_changed hne
  rw [hi] at hn; cases hn

/-- Every instruction keeps memory in its canonical form. -/
theorem Effect.wf_mem (h : Effect i s t) (hm : s.mem.wf) : t.mem.wf := by
  cases h with
  | stored | storedPart => exact Memory.wf_write hm _ _ _
  | wroteReg | jumped | stayed | unknownReg | roDest | loadhTop => exact hm

/-- An instruction leaves the run state, or it faults with a ground and with every register as it was (R130, R138). -/
theorem Effect.run_cases (h : Effect i s t) :
    t.run = s.run ∨
    ∃ e, t.run = .faulted e (s.reg .rpc) ∧ t.regs = s.regs ∧ e.genuine s.cfg s.enableDevice := by
  cases h with
  | wroteReg | stored | jumped | stayed => exact .inl rfl
  | unknownReg c hm hc => exact .inr ⟨_, rfl, rfl, Config.resolve_eq_none.1 hc⟩
  | roDest c r hc hr hro => exact .inr ⟨_, rfl, rfl, hro⟩
  | storedPart | loadhTop => exact .inr ⟨_, rfl, rfl, rfl⟩

/-- An instruction that is no `CJUMP` advances unless it faults (R20, R75). -/
theorem Effect.advanced_of_running (h : Effect i s t) (hrun : t.run = .running) (hj : ∀ a b, i ≠ .cjump a b) :
    advanced s t := by
  cases h with
  | wroteReg c r v hc hr hpc => exact advanced_advance (by simp [hpc.symm])
  | stored => exact advanced_advance rfl
  | jumped r q hi | stayed r q hi => exact absurd hi (hj _ _)
  | storedPart | unknownReg | roDest | loadhTop => simp at hrun

/-- A completed `CJUMP` jumps where operand2's register is zero and stays where it is not (R105, R106). -/
theorem Effect.cjump_rpc {a b : HalfWord} (h : Effect (.cjump a b) s t) (hrun : t.run = .running) :
    ∃ target c, s.regGet a = .ok target ∧ s.regGet b = .ok c ∧
      t.reg .rpc = if c = 0 then target else s.reg .rpc := by
  cases h with
  | jumped r q hi hr hq hz => exact ⟨_, _, State.regGet_some hr, State.regGet_some hq, by simp [hz]⟩
  | stayed r q hi hr hq hz => exact ⟨_, _, State.regGet_some hr, State.regGet_some hq, (if_neg hz).symm⟩
  | wroteReg c r v hc => cases hc
  | stored r n v hi => simp at hi
  | storedPart | unknownReg | roDest | loadhTop => simp at hrun

end Effects

/-! ### The rest of a cycle, and a step -/

/-- The same registers, memory, `ENABLE_DEVICE` and configuration: only the run state and the trace may differ. -/
structure SameStore (u t : State) : Prop where
  regs : t.regs = u.regs
  mem : t.mem = u.mem
  enableDevice : t.enableDevice = u.enableDevice
  cfg : t.cfg = u.cfg

/-- Everything the rest of a cycle can be: nothing after a fault, else the device step and the halt check (R70, R80). -/
theorem afterInstr_cases (a : HalfWord) (s : State) :
    afterInstr a s = s ∨ (s.run = .running ∧ afterInstr a s = haltCheck (deviceStep a s)) := by
  by_cases h : s.run = .running
  · exact .inr ⟨h, afterInstr_running h⟩
  · exact .inl (afterInstr_stopped h)

/-- The rest of a cycle writes no register and no cell (R77, R119). -/
theorem sameStore_afterInstr (a : HalfWord) (s : State) : SameStore s (afterInstr a s) := by
  rcases afterInstr_cases a s with e | ⟨-, e⟩ <;> rw [e]
  · exact ⟨rfl, rfl, rfl, rfl⟩
  · exact ⟨by simp, by simp, by simp, by simp⟩

/-- The rest of a cycle emits at most one command, and none with the device disabled (R110). -/
theorem afterInstr_trace_cases (a : HalfWord) (s : State) :
    (afterInstr a s).trace = s.trace ∨
    (s.enableDevice = true ∧ ∃ c, (afterInstr a s).trace = s.trace ++ [c]) := by
  rcases afterInstr_cases a s with e | ⟨-, e⟩
  · exact .inl (by rw [e])
  · rw [e, haltCheck_trace]
    rcases deviceStep_cases a s with e | ⟨c, hen, -, e⟩ | ⟨c, -, -, e⟩ <;> rw [e]
    · exact .inl rfl
    · exact .inr ⟨hen, c, rfl⟩
    · exact .inl rfl

/-- A step replaces the run state alone, or it is the effect of the fetched instruction and the rest of the cycle
(R70, R78, R80). -/
theorem step_effect_cases {s t : State} (h : step s = .next t) :
    (∃ r, t = s.setRun r) ∨
    ∃ i u, s.nextInstr = some i ∧ Effect i s u ∧ t = afterInstr (s.reg .rpc) u := by
  rcases step_cases h with ⟨-, -, rfl⟩ | ⟨-, rfl⟩ |
    ⟨-, -, ⟨-, rfl⟩ | ⟨I, b, -, -, rfl⟩ | ⟨I, i, u, hf, hd, he, rfl⟩⟩
  · exact .inl ⟨_, rfl⟩
  · exact .inl ⟨t.run, rfl⟩
  · exact .inl ⟨_, rfl⟩
  · exact .inl ⟨_, rfl⟩
  · exact .inr ⟨i, u, nextInstr_of_fetch hf hd, effect_of_exec he, rfl⟩

/-- Up to the run state and the trace, a step is nothing or the effect of the fetched instruction (R17, R70). -/
theorem step_sameStore {s t : State} (h : step s = .next t) :
    ∃ u, SameStore u t ∧ (u = s ∨ ∃ i, s.nextInstr = some i ∧ Effect i s u) := by
  rcases step_effect_cases h with ⟨r, rfl⟩ | ⟨i, u, hi, hE, rfl⟩
  · exact ⟨s, ⟨rfl, rfl, rfl, rfl⟩, .inl rfl⟩
  · exact ⟨u, sameStore_afterInstr _ u, .inr ⟨i, hi, hE⟩⟩

/-- One step leaves `RSP`, `ENABLE_DEVICE` and the configuration (R16, R28). -/
theorem step_constants {s t : State} (h : step s = .next t) :
    t.reg .rsp = s.reg .rsp ∧ t.enableDevice = s.enableDevice ∧ t.cfg = s.cfg := by
  obtain ⟨u, hut, hu⟩ := step_sameStore h
  have hrsp : t.reg .rsp = u.reg .rsp := congrArg RegFile.rsp hut.regs
  rw [hrsp, hut.enableDevice, hut.cfg]
  rcases hu with rfl | ⟨i, -, hE⟩
  · exact ⟨rfl, rfl, rfl⟩
  · obtain ⟨-, hen, hcfg⟩ := hE.surround
    exact ⟨hE.rsp, hen, hcfg⟩

/-! ### The honest run state -/

theorem State.runHonest_of_running {s : State} (h : s.run = .running) : s.runHonest := by
  simp [State.runHonest, h]

theorem State.runHonest_of_faulted {s : State} {e : Cause} {a : HalfWord} (h : s.run = .faulted e a)
    (he : e.genuine s.cfg s.enableDevice) : s.runHonest := by
  simp [State.runHonest, h, he]

theorem State.runHonest_setRun_halted {s : State} (h : s.reg .rpc = s.reg .rsp) :
    (s.setRun .halted).runHonest := h

/-- What makes the CPU's decoder reject a word is an opcode byte outside the table (R55, R132). -/
theorem genuine_of_decodeWord_error {I : InstrWord} {b : Byte} (h : decodeWord I = .error b) :
    ∀ k, opcodeByte k ≠ b := by
  unfold decodeWord at h
  split at h
  · cases h
  · next hn => cases h; exact decodeOpcode_eq_none.1 hn

/-- The faults of a poll have their ground (R123, R133, R136). -/
theorem genuine_of_devicePoll_error {cfg : Config} {m : Memory} {en : Bool} {e : Cause} (hen : en = true)
    (h : devicePoll cfg m = .error e) : e.genuine cfg en := by
  rcases devicePoll_error h with ⟨d, rfl, hd⟩ | rfl
  · exact ⟨hen, hd⟩
  · rfl

/-- The device step of a running machine leaves an honest run state. -/
theorem runHonest_deviceStep {s : State} (a : HalfWord) (h : s.run = .running) : (deviceStep a s).runHonest := by
  rcases deviceStep_cases a s with e | ⟨c, -, -, e⟩ | ⟨c, hen, hp, e⟩ <;> rw [e]
  · exact State.runHonest_of_running h
  · exact State.runHonest_of_running h
  · exact State.runHonest_of_faulted rfl (genuine_of_devicePoll_error hen hp)

/-- The halt check keeps an honest run state. -/
theorem runHonest_haltCheck {s : State} (h : s.runHonest) : (haltCheck s).runHonest := by
  rcases haltCheck_cases s with ⟨e, -, hr⟩ | ⟨e, -⟩ <;> rw [e]
  · exact State.runHonest_setRun_halted hr
  · exact h

/-- After an instruction of a running machine the rest of the cycle leaves an honest run state. -/
theorem Effect.runHonest_afterInstr {i : Instr} {s u : State} (hE : Effect i s u) (hs : s.run = .running)
    (a : HalfWord) : (afterInstr a u).runHonest := by
  rcases hE.run_cases with hrun | ⟨e, hrun, -, he⟩
  · have hu : u.run = .running := hrun.trans hs
    rw [afterInstr_running hu]
    exact runHonest_haltCheck (runHonest_deviceStep a hu)
  · obtain ⟨-, hen, hcfg⟩ := hE.surround
    rw [afterInstr_stopped (by simp [hrun])]
    exact State.runHonest_of_faulted hrun (by rwa [hcfg, hen])

/-- A step keeps the canonical form of memory. -/
theorem wf_mem_step {s t : State} (hm : s.mem.wf) (h : step s = .next t) : t.mem.wf := by
  obtain ⟨u, hut, hu⟩ := step_sameStore h
  rw [hut.mem]
  rcases hu with rfl | ⟨i, -, hE⟩
  · exact hm
  · exact hE.wf_mem hm

/-- A step keeps the run state honest. -/
theorem runHonest_step {s t : State} (hs : s.runHonest) (h : step s = .next t) : t.runHonest := by
  rcases step_cases h with ⟨-, hr, rfl⟩ | ⟨-, rfl⟩ |
    ⟨hrun, -, ⟨-, rfl⟩ | ⟨I, b, -, hd, rfl⟩ | ⟨I, i, u, -, -, he, rfl⟩⟩
  · exact State.runHonest_setRun_halted hr
  · exact hs
  · exact State.runHonest_of_faulted rfl rfl
  · exact State.runHonest_of_faulted rfl (genuine_of_decodeWord_error hd)
  · exact (effect_of_exec he).runHonest_afterInstr hrun _

/-! ### One canonical memory -/

/-- A list with every address above `a` reads as unlisted at `a`. -/
theorem Memory.byteAt_of_forall_lt {m : Memory} {a : Nat} (h : ∀ c ∈ m, a < c.1) :
    m.byteAt a = Memory.unlisted := by
  induction m with
  | nil => rfl
  | cons c m ih =>
    have hc : a < c.1 := h c (by simp)
    rw [Memory.byteAt_cons, if_neg (by omega)]
    exact ih fun d hd => h d (by simp [hd])

/-- In canonical form the listed cells are those that read different from an unlisted one, with what they read. -/
theorem Memory.mem_iff_byteAt {m : Memory} (h : m.wf) (c : Host.Cell) :
    c ∈ m ↔ c.2 ≠ Memory.unlisted ∧ m.byteAt c.1 = c.2 := by
  induction m with
  | nil => simpa using fun hne heq => hne heq.symm
  | cons d m ih =>
    obtain ⟨hp, hcells⟩ := h
    obtain ⟨hlt, hp⟩ := List.pairwise_cons.1 hp
    have ih := ih ⟨hp, fun e he => hcells e (by simp [he])⟩
    rw [List.mem_cons, Memory.byteAt_cons]
    by_cases hd : d.1 = c.1
    · have hnot : c ∉ m := fun hc => by have := hlt c hc; omega
      rw [if_pos hd, or_iff_left hnot]
      constructor
      · rintro rfl; exact ⟨(hcells c (by simp)).1, rfl⟩
      · rintro ⟨-, hv⟩; exact (Prod.ext hd hv).symm
    · rw [if_neg hd, or_iff_right fun h => hd (by rw [h]), ih]

theorem Memory.nodup_of_wf {m : Memory} (h : m.wf) : m.Nodup :=
  h.1.imp fun hlt he => by rw [he] at hlt; exact Nat.lt_irrefl _ hlt

/-! ### The statements of tier 3 -/

/-- Settles O46: each step leaves the three, and so does every run, by the induction over runs. -/
theorem sentinelAndConfigurationAreConstant : Obligations.SentinelAndConfigurationAreConstant := by
  intro k s t h
  refine runSteps_induction (R := fun s t =>
    t.reg .rsp = s.reg .rsp ∧ t.enableDevice = s.enableDevice ∧ t.cfg = s.cfg)
    (fun _ => ⟨rfl, rfl, rfl⟩) (fun s u t hu => ?_) h
  obtain ⟨hrsp, hen, hcfg⟩ := step_constants hu
  rw [hrsp, hen, hcfg]
  exact id

/-- Settles O47: a step's registers and memory are the old ones or those of the fetched instruction's effect. -/
theorem onlyTheFetchedInstructionWrites : Obligations.OnlyTheFetchedInstructionWrites := by
  intro s t h
  obtain ⟨u, hut, hu⟩ := step_sameStore h
  have hbyte : ∀ a, t.byte a = u.byte a := fun a => congrArg (Memory.byteAt · a) hut.mem
  have hreg : ∀ r, t.reg r = u.reg r := fun r => congrArg (RegFile.get · r) hut.regs
  rcases hu with rfl | ⟨i, hi, hE⟩
  · exact ⟨fun a hne => absurd (hbyte a) hne, fun r _ hne => absurd (hreg r) hne⟩
  · refine ⟨fun a hne => ?_, fun r hr hne => ?_⟩
    · obtain ⟨r, n, hn, hop, hlo, hhi⟩ := hE.byte_changed (hbyte a ▸ hne)
      refine ⟨i.op1, i.op2, _, State.regGet_some hop, ?_⟩
      rcases Instr.storeSize_eq_some.1 hn with ⟨hst, rfl⟩ | ⟨hst, rfl⟩
      · exact .inl ⟨hst ▸ hi, by omega⟩
      · exact .inr ⟨hst ▸ hi, hlo, hhi⟩
    · obtain ⟨-, c, hc, hcr⟩ := hE.reg_changed hr (hreg r ▸ hne)
      exact ⟨i, c, hi, hc, hcr⟩

/-- Settles O48: a step keeps the canonical form of memory and the honest run state. -/
theorem stepKeepsTheInvariant : Obligations.StepKeepsTheInvariant := by
  rintro s t ⟨hm, hs⟩ h
  exact ⟨wf_mem_step hm h, runHonest_step hs h⟩

/-! ### The frames, `RPC`, the trace and memory's form -/

/-- Settles O26: the effect of an instruction with a destination operand, read off by component. -/
theorem registerWritersFrame : Obligations.RegisterWritersFrame := by
  intro i s t c hc h
  have hE := effect_of_exec h
  refine ⟨hE.memSame_of_noStore (Instr.storeSize_of_writeOperand hc), hE.surround, fun r hr q hq => ?_,
    fun hn => regsSameBut_of_regs (hE.regs_of_unknownDestination hc hn) _⟩
  by_contra hne
  rw [List.mem_cons, List.mem_singleton, not_or] at hq
  obtain ⟨hqr, hqpc⟩ := hq
  obtain ⟨-, c', hc', hr'⟩ := hE.reg_changed hqpc hne
  cases hc.symm.trans hc'
  exact hqr (Option.some.inj (hr'.symm.trans hr))

/-- Settles O27: a changed byte is one of the cells at the value of operand2's register. -/
theorem storesFrame : Obligations.StoresFrame := by
  intro i op1 op2 n s t hi h
  have hE := effect_of_exec h
  obtain ⟨hop, hn⟩ : i.op2 = op2 ∧ i.storeSize = some n := by
    rcases hi with ⟨rfl, rfl⟩ | ⟨rfl, rfl⟩ <;> exact ⟨rfl, rfl⟩
  have hbyte : ∀ a, t.byte a ≠ s.byte a →
      ∃ v, s.regGet op2 = .ok v ∧ v.toNat ≤ a ∧ a < v.toNat + n := by
    intro a hne
    obtain ⟨r, n', hn', hr, hrange⟩ := hE.byte_changed hne
    cases hn.symm.trans hn'
    exact ⟨s.reg r, State.regGet_some (hop ▸ hr), hrange⟩
  refine ⟨hE.regsSame_of_noDestination (Instr.writeOperand_of_storeSize hn), hE.surround, fun addr hv a ha => ?_,
    fun e he a => ?_⟩
  · by_contra hne
    obtain ⟨v, hv', hlo, hhi⟩ := hbyte a hne
    cases hv.symm.trans hv'
    omega
  · by_contra hne
    obtain ⟨v, hv, -⟩ := hbyte a hne
    cases he.symm.trans hv

/-- Settles O28: `CJUMP` has no destination operand and stores nothing. -/
theorem cjumpFrame : Obligations.CjumpFrame := by
  intro op1 op2 s t h
  have hE := effect_of_exec h
  exact ⟨hE.regsSame_of_noDestination rfl, hE.memSame_of_noStore rfl, hE.surround⟩

/-- Settles O29: the faulting, the advancing and the jumping effects in turn. -/
theorem eachInstructionLeavesRpcAsRuled : Obligations.EachInstructionLeavesRpcAsRuled := by
  intro i s t hs h
  have hE := effect_of_exec h
  refine ⟨fun hf => ?_, hE.advanced_of_running, ?_⟩
  · rcases hE.run_cases with hrun | ⟨e, -, hregs, -⟩
    · exact absurd (hrun.trans hs) hf
    · exact congrArg RegFile.rpc hregs
  · rintro hrun a b rfl
    exact hE.cjump_rpc hrun

/-- Settles O43: only the device step, in the rest of a cycle, reaches the trace. -/
theorem traceGrowsByAtMostOneCommand : Obligations.TraceGrowsByAtMostOneCommand := by
  intro s t h
  rcases step_effect_cases h with ⟨r, rfl⟩ | ⟨i, u, -, hE, rfl⟩
  · exact .inl rfl
  · obtain ⟨htr, hen, -⟩ := hE.surround
    rw [← htr, ← hen]
    exact afterInstr_trace_cases _ u

/-- Settles O51: the two lists have the same cells, and both are sorted by address. -/
theorem canonicalMemoryIsUnique : Obligations.CanonicalMemoryIsUnique := by
  intro m n hm hn h
  have hmem : ∀ c, c ∈ m ↔ c ∈ n := fun c => by rw [Memory.mem_iff_byteAt hm, Memory.mem_iff_byteAt hn, h]
  have hperm : m.Perm n := (List.perm_ext_iff_of_nodup (Memory.nodup_of_wf hm) (Memory.nodup_of_wf hn)).2 hmem
  exact hperm.eq_of_pairwise (fun _ _ _ _ hlt hgt => absurd (Nat.lt_trans hlt hgt) (Nat.lt_irrefl _)) hm.1 hn.1

/-! ### Register operands -/

/-- Settles O9: `Resolve` inverts the code table, and `RegGet` reads what it answers. -/
theorem registerCodeReadsItsRegister : Obligations.RegisterCodeReadsItsRegister := by
  intro s hw
  refine ⟨fun r => ?_, fun c hc => State.regGet_none (Config.resolve_eq_none.2 hc)⟩
  have hr := Config.resolve_code hw r
  exact ⟨hr, State.regGet_some hr⟩

/-- Settles O10: `Resolve` inverts the code table, and `RegSet` has one outcome for each kind of answer. -/
theorem protectedWriteSparesRpcAndRsp : Obligations.ProtectedWriteSparesRpcAndRsp := by
  intro s v hw
  refine ⟨fun r hr => ?_, fun r hr => State.regSet_readOnly v (Config.resolve_code hw r) hr,
    fun c hc => State.regSet_none v (Config.resolve_eq_none.2 hc), by simp⟩
  exact ⟨s.setReg r v, State.regSet_writable v (Config.resolve_code hw r) hr, by simp, regsSameBut_setReg s r v,
    fun _ => rfl, ⟨rfl, rfl, rfl⟩, rfl⟩

end Sys2Proof.Machine

/-! PROOFS. The statements of spec/20_memory.md: what is written is what is read back (R35), first for a number in
big-endian bytes, then for memory at any address and size; from it the word that the host places at `RPC` and the
half-word that `STOREH` leaves for `LOADH`. -/

namespace Sys2Proof

/-! ### Big-endian bytes and the instruction word -/

/-- The assembly loop of R33 run over the bytes of R34, from any value assembled before them. -/
theorem foldl_natToBytes (n v acc : Nat) :
    (natToBytes n v).foldl (fun w b => w * 256 + byteToDec b) acc = acc * 256 ^ n + v % 256 ^ n := by
  induction n generalizing acc with
  | zero => simp [natToBytes, Nat.mod_one]
  | succ n ih =>
    have hsplit : v % 256 ^ (n + 1) = v % 256 ^ n + 256 ^ n * (v / 256 ^ n % 256) := by
      rw [pow_succ, Nat.mod_mul]
    rw [natToBytes, List.foldl_cons, ih, byteToDec, toNat_decToByte, hsplit]
    ring

/-- A number laid out in `n` bytes and assembled again is its remainder on `n` bytes. -/
theorem bytesToNat_natToBytes (n v : Nat) : bytesToNat (natToBytes n v) = v % 256 ^ n := by
  rw [bytesToNat, foldl_natToBytes, Nat.zero_mul, Nat.zero_add]

/-- A table row of 40 bits is the instruction word itself. -/
@[simp] theorem tableWord_forty (I : InstrWord) : tableWord 40 I.toNat = I := by simp [tableWord]

/-- Decoding the word of an instruction gives it back (R51, R52, R54). -/
@[simp] theorem decodeWord_encodeWord (i : Instr) : decodeWord (encodeWord i) = .ok i := by
  simp [decodeWord, encodeWord, Instr.kind_instr]

end Sys2Proof

namespace Sys2Proof.Machine

/-! ### Read after write -/

/-- The cells of a write inside memory, read in ascending order, are the bytes written (R35). -/
theorem Memory.map_byteAt_writeBytes (m : Memory) (bs : List Byte) (a : Nat) (h : a + bs.length ≤ memSize) :
    (List.range' a bs.length).map (m.writeBytes a bs).1.byteAt = bs := by
  refine List.ext_getElem (by simp) fun i _ hi => ?_
  rw [List.getElem_map, List.getElem_range', Nat.one_mul]
  exact m.byteAt_writeBytes_inside bs a i h hi

/-- Reading the `n` cells at which a number was written gives its remainder on `n` bytes (R33 to R35). -/
theorem Memory.read_write (m : Memory) (a n v : Nat) (h : a + n ≤ memSize) :
    (m.write a n v).1.read a n = .ok (v % 256 ^ n) := by
  have hcells := m.map_byteAt_writeBytes (natToBytes n v) a (by simpa using h)
  rw [length_natToBytes] at hcells
  rw [Memory.read_ok _ _ _ (.inr h), Memory.write, hcells, bytesToNat_natToBytes]

/-! ### The placed word -/

section PlacedWord

variable (s : State) (I : InstrWord)

@[simp] theorem State.withFetchWord_mem :
    (s.withFetchWord 40 I.toNat).mem = (s.mem.write (halfWordToDec (s.reg .rpc)) 5 I.toNat).1 := by
  simp [State.withFetchWord, placeFetchWord, Memory.write]

@[simp] theorem State.withFetchWord_rpc : (s.withFetchWord 40 I.toNat).reg .rpc = s.reg .rpc := by
  simp [State.withFetchWord, placeFetchWord]

@[simp] theorem State.withFetchWord_rsp : (s.withFetchWord 40 I.toNat).reg .rsp = sentinelPast s := by
  simp [State.withFetchWord, placeFetchWord]

@[simp] theorem State.withFetchWord_run : (s.withFetchWord 40 I.toNat).run = .running := rfl

/-- The halt sentinel never stands at the placed word. -/
theorem rpc_ne_sentinelPast : s.reg .rpc ≠ sentinelPast s := by
  unfold sentinelPast
  split
  · intro h
    have hlt := (s.reg .rpc).isLt
    have hnat := congrArg BitVec.toNat h
    rw [toNat_decToHalfWord, halfWordToDec] at hnat
    omega
  · assumption

/-- The next fetch gives the placed word: it reads the five cells just written (R44, R71). -/
theorem fetch_withFetchWord (h : (s.reg .rpc).toNat ≤ 65531) : fetch (s.withFetchWord 40 I.toNat) = .ok I := by
  have hin : halfWordToDec (s.reg .rpc) + 5 ≤ memSize := by unfold halfWordToDec memSize; omega
  have hword : BitVec.ofNat 40 (I.toNat % 256 ^ 5) = I := by
    rw [Nat.mod_eq_of_lt (show I.toNat < 256 ^ 5 from I.isLt), BitVec.ofNat_toNat, BitVec.setWidth_eq]
  simp only [fetch, State.withFetchWord_mem, State.withFetchWord_rpc, Memory.read_write _ _ _ _ hin, hword]

end PlacedWord

/-- Settles O55: the step fetches the placed word, which decodes to the instruction; it is no boundary, since the
sentinel stands past the word. -/
theorem placedWordRunsNext : Obligations.PlacedWordRunsNext := by
  intro s i h
  have hfetch := fetch_withFetchWord s (encodeWord i) h
  have hdecode := decodeWord_encodeWord i
  obtain ⟨t, ht, -⟩ := exec_effect i (s.withFetchWord 40 (encodeWord i).toNat)
  refine ⟨nextInstr_of_fetch hfetch hdecode, t, ht, ?_⟩
  have hne := rpc_ne_sentinelPast s
  rw [step_running (by simp) (by simpa using hne), cycle_exec hfetch hdecode ht, State.withFetchWord_rpc]

/-! ### The half-word accesses below the top address -/

/-- A `STOREH` whose address is below 65535 writes both bytes and advances (R93). -/
theorem exec_storeh_below_top {s : State} {vOp aOp : HalfWord} {v a : RegName} (hv : s.cfg.resolve vOp = some v)
    (ha : s.cfg.resolve aOp = some a) (hlt : (s.reg a).toNat < 65535) :
    exec (.storeh vOp aOp) s =
      .next (s.setMem ((s.mem.setByte (s.reg a).toNat (hi (s.reg v))).setByte ((s.reg a).toNat + 1)
        (lo (s.reg v)))).advance := by
  rw [exec, execStoreh, State.readOperand_some _ hv, State.readOperand_some _ ha, State.writeMem_two _ _ _ _ hlt]

/-- A `LOADH` whose address is below 65535 loads the half-word of its two cells and advances (R92). -/
theorem exec_loadh_below_top {s : State} {aOp dOp : HalfWord} {a d : RegName} (ha : s.cfg.resolve aOp = some a)
    (hd : s.cfg.resolve dOp = some d) (hwr : writable d) (hlt : (s.reg a).toNat < 65535) :
    exec (.loadh aOp dOp) s =
      .next (s.setReg d (hw (s.byte (s.reg a).toNat) (s.byte ((s.reg a).toNat + 1)))).advance := by
  obtain ⟨hpc, hsp⟩ := hwr
  rw [exec, execLoadh, State.readOperand_some _ ha, State.readMem_two _ _ _ hlt, decToHalfWord_toNat,
    State.writeOperand_writable _ _ hd hpc hsp]

/-- Settles O21: the store leaves the address register, so the load reads the two bytes just written, which make up
the stored half-word. -/
theorem loadhReturnsWhatStorehStored : Obligations.LoadhReturnsWhatStorehStored := by
  intro s vOp aOp dOp v a d hv ha hd hwr hpc hlt
  have haddr (m : Memory) : (s.setMem m).advance.reg a = s.reg a := by simp [hpc]
  refine ⟨_, _, exec_storeh_below_top hv ha hlt, exec_loadh_below_top ha hd hwr (by rwa [haddr]), ?_⟩
  rw [reg_setReg_advance _ _ hwr, haddr]
  simp

end Sys2Proof.Machine

/-! PROOFS. The statements of spec/30_encoding.md: encoder and decoder are inverse to each other on words and on byte
lists, the opcode byte alone decides, and how an instruction with an operand that is no register code, or with a
destination that is `RPC` or `RSP`, executes (R57, R58). -/

namespace Sys2Proof

/-! ### The decoder of words -/

/-- A word with a kind's byte is that kind, whatever its operands (R55). -/
@[simp] theorem decodeWord_mkWord_opcodeByte (k : Kind) (a b : HalfWord) :
    decodeWord (mkWord (opcodeByte k) a b) = .ok (k.instr a b) := by
  simp [decodeWord]

/-- A word whose opcode byte is outside the table is no instruction (R55, R56). -/
theorem decodeWord_illegal {I : InstrWord} (h : ∀ k, opcodeByte k ≠ wordOpcode I) :
    decodeWord I = .error (wordOpcode I) := by
  rw [decodeWord, decodeOpcode_eq_none.2 h]

theorem decodeWord_mkWord_illegal {o : Byte} (a b : HalfWord) (h : ∀ k, opcodeByte k ≠ o) :
    decodeWord (mkWord o a b) = .error o := by
  simpa using decodeWord_illegal (I := mkWord o a b) (by simpa using h)

/-- The words that decode to an instruction: its encoding and no other (R51, R54). -/
theorem decodeWord_eq_ok_iff {I : InstrWord} {i : Instr} : decodeWord I = .ok i ↔ I = encodeWord i := by
  constructor
  · intro h
    unfold decodeWord at h
    split at h
    · next k hk =>
      cases h
      rw [encodeWord, Kind.kind_instr, Kind.op1_instr, Kind.op2_instr, opcodeByte_of_decodeOpcode hk, mkWord_fields]
    · cases h
  · rintro rfl
    exact decodeWord_encodeWord i

/-- A word determines its three fields (R52). -/
theorem mkWord_inj {o o' : Byte} {a a' b b' : HalfWord} :
    mkWord o a b = mkWord o' a' b' ↔ o = o' ∧ a = a' ∧ b = b' := by
  constructor
  · intro h
    have ho := congrArg wordOpcode h
    have ha := congrArg wordOp1 h
    have hb := congrArg wordOp2 h
    simp only [wordOpcode_mkWord, wordOp1_mkWord, wordOp2_mkWord] at ho ha hb
    exact ⟨ho, ha, hb⟩
  · rintro ⟨rfl, rfl, rfl⟩; rfl

/-! ### The decoder of byte lists -/

/-- A byte list decodes to an instruction where it has five bytes whose word does (R50, R51). -/
theorem decode_eq_ok_iff {bs : List Byte} {i : Instr} :
    decode bs = .ok i ↔ bs.length = 5 ∧ decodeWord (BitVec.ofNat 40 (bytesToNat bs)) = .ok i := by
  unfold decode
  split
  · next hlen => cases decodeWord (BitVec.ofNat 40 (bytesToNat bs)) <;> simp [hlen]
  · next hlen => simp [hlen]

/-- The five bytes of an instruction decode to it (R50, R51, R54). -/
theorem decode_encode (i : Instr) : decode (encode i) = .ok i := by
  obtain ⟨hword, -⟩ := Laws.ByteLayout.of_instr i
  exact decode_eq_ok_iff.2 ⟨rfl, by rw [hword, decodeWord_encodeWord]⟩

/-- Five bytes of which the first is outside the table are no instruction (R55, R56). -/
theorem decode_illegal {b0 : Byte} (b1 b2 b3 b4 : Byte) (h : ∀ k, opcodeByte k ≠ b0) :
    decode [b0, b1, b2, b3, b4] = .error (.invalidOpcode b0) := by
  rw [decode, if_pos (by rfl), ofNat_bytesToNat_five, decodeWord_mkWord_illegal _ _ h]

/-- Five bytes whose word is an instruction's are that instruction's bytes: no bit of a byte is ignored (R51, R56). -/
theorem eq_encode_of_word {bs : List Byte} {i : Instr} (hlen : bs.length = 5)
    (h : BitVec.ofNat 40 (bytesToNat bs) = encodeWord i) : bs = encode i := by
  match bs, hlen with
  | [b0, b1, b2, b3, b4], _ =>
    rw [ofNat_bytesToNat_five, encodeWord, mkWord_inj] at h
    obtain ⟨ho, ha, hb⟩ := h
    rw [encode, ← ho, ← ha, ← hb, hi_hw, lo_hw, hi_hw, lo_hw]

/-! ### Encoder and decoder -/

/-- Settles O4: the five bytes assemble to the instruction's word, whose fields give the instruction back. -/
theorem decodeOfEncodeIsIdentity : Obligations.DecodeOfEncodeIsIdentity :=
  fun i => ⟨decode_encode i, decodeWord_encodeWord i⟩

/-- Settles O5: the word is the encoding's, and the word determines the five bytes. -/
theorem decodedBytesAreTheEncoding : Obligations.DecodedBytesAreTheEncoding := by
  refine ⟨fun bs i h => ?_, fun I i h => decodeWord_eq_ok_iff.1 h⟩
  obtain ⟨hlen, hword⟩ := decode_eq_ok_iff.1 h
  exact eq_encode_of_word hlen (decodeWord_eq_ok_iff.1 hword)

/-- Settles O6: five of the words are encodings, the bytes of the other two stand outside the table. -/
theorem sampleWordsDecode : Obligations.SampleWordsDecode :=
  ⟨decode_encode (.set 0x0001 0x0005), decode_encode (.mov 0x0001 0x0002), decode_encode (.loadh 0x1234 0xABCD),
    decode_encode (.add 0x0001 0x0002), decode_encode (.cjump 0x0001 0x0002),
    decode_illegal _ _ _ _ (decodeOpcode_eq_none.1 (by decide)),
    decode_illegal _ _ _ _ (decodeOpcode_eq_none.1 (by decide))⟩

/-! ### Register operands and legality -/

section RegisterOperands

variable {cfg : Config} {i : Instr} {c : HalfWord}

/-- operand1 is a register operand of every instruction, operand2 of all but `SET` (R53). -/
theorem Instr.registerOperands_cases (i : Instr) :
    i.registerOperands = [i.op1] ∨ i.registerOperands = [i.op1, i.op2] := by
  cases i with
  | set a b => exact .inl rfl
  | load a b | store a b | loadh a b | storeh a b | add a b | sub a b | cjump a b | mov a b => exact .inr rfl

/-- The first unknown register operand is operand1, or operand2 after an operand1 that is known (R139). -/
theorem Instr.firstUnknown_cases
    (h : i.registerOperands.find? (fun o => (cfg.resolve o).isNone) = some c) :
    (cfg.resolve i.op1 = none ∧ c = i.op1) ∨
    (∃ q, cfg.resolve i.op1 = some q ∧ i.registerOperands = [i.op1, i.op2] ∧ cfg.resolve i.op2 = none ∧
      c = i.op2) := by
  have hc : cfg.resolve c = none := by simpa using List.find?_some h
  cases h1 : cfg.resolve i.op1 with
  | none =>
    rcases i.registerOperands_cases with e | e <;> rw [e, List.find?_cons_of_pos (by simp [h1])] at h
    · exact .inl ⟨rfl, (Option.some.inj h).symm⟩
    · exact .inl ⟨rfl, (Option.some.inj h).symm⟩
  | some q =>
    rcases i.registerOperands_cases with e | e <;> rw [e, List.find?_cons_of_neg (by simp [h1])] at h
    · cases h
    · have hc2 : c = i.op2 := by simpa using List.mem_of_find?_eq_some h
      exact .inr ⟨q, rfl, e, hc2 ▸ hc, hc2⟩

/-- A legal instruction has no unknown register operand (R57). -/
theorem Instr.resolve_ne_none_of_wellFormed (h : i.wellFormed cfg = true) (hc : c ∈ i.registerOperands) :
    cfg.resolve c ≠ none := by
  rw [Instr.wellFormed, Bool.and_eq_true, Instr.codesKnown, List.all_eq_true] at h
  exact Option.isSome_iff_ne_none.1 (h.1 c hc)

/-- The destination of a legal instruction is no read-only register (R58). -/
theorem Instr.not_readOnly_of_wellFormed {r : RegName} (h : i.wellFormed cfg = true) (hc : i.writeOperand = some c)
    (hr : cfg.resolve c = some r) : ¬ (r = .rpc ∨ r = .rsp) := by
  rw [Instr.wellFormed, Bool.and_eq_true, Instr.destinationWritable, hc] at h
  have hdest : readOnly r = false := by simpa [hr] using h.2
  rw [← readOnly_iff, hdest]
  exact Bool.false_ne_true

end RegisterOperands

end Sys2Proof

namespace Sys2Proof.Machine

/-! ### Fetched words -/

/-- Settles O7: the decoder's two cases, and the cycle's fault on the second. -/
theorem opcodeByteAloneDecides : Obligations.OpcodeByteAloneDecides := by
  refine ⟨decodeWord_mkWord_opcodeByte, fun _ a b h => decodeWord_mkWord_illegal a b h,
    fun s I hrun hne hf h => ⟨_, ?_, faultedWith_raise s _⟩⟩
  rw [step_running hrun hne, cycle_illegal hf (decodeWord_illegal h)]

/-- Settles O8: the fetch answers the word made of the five cells, and reading its fields undoes making it. -/
theorem operandsAreBigEndianAfterTheOpcode : Obligations.OperandsAreBigEndianAfterTheOpcode := by
  intro s h
  refine ⟨_, fetch_ok s h, wordOpcode_mkWord _ _ _, wordOp1_mkWord _ _ _, wordOp2_mkWord _ _ _, ?_⟩
  rw [← toNat_mkWord, mkWord_fields]

/-! ### Faults of operands -/

section OperandFaults

variable {i : Instr} {s : State}

/-- Every instruction resolves operand1 first, and faults where it is no register code (R57, R139). -/
theorem exec_op1_unknown (h : s.cfg.resolve i.op1 = none) :
    exec i s = .next (s.raise (.unknownRegister i.op1)) := by
  cases i with
  | set a b => exact State.writeOperand_none _ _ h
  | load a b | store a b | loadh a b | storeh a b | add a b | sub a b | cjump a b | mov a b =>
    exact State.readOperand_none _ h

/-- operand2 is resolved next, but for the memory read of `LOAD` and `LOADH` before it (R139). -/
theorem exec_op2_unknown {q : RegName} (hops : i.registerOperands = [i.op1, i.op2])
    (h1 : s.cfg.resolve i.op1 = some q) (h2 : s.cfg.resolve i.op2 = none)
    (htop : i = .loadh i.op1 i.op2 → (s.reg q).toNat ≠ 65535) :
    exec i s = .next (s.raise (.unknownRegister i.op2)) := by
  cases i with
  | set a b => cases hops
  | store a b | storeh a b | add a b | sub a b | cjump a b =>
    exact (State.readOperand_some _ h1).trans (State.readOperand_none _ h2)
  | mov a b => exact (State.readOperand_some _ h1).trans (State.writeOperand_none _ _ h2)
  | load a b =>
    exact (State.readOperand_some _ h1).trans
      ((State.readMem_one _ _ _).trans (State.writeOperand_none _ _ h2))
  | loadh a b =>
    have hlt : (s.reg q).toNat < 65535 := by
      have := (s.reg q).isLt
      have := htop rfl
      omega
    exact (State.readOperand_some _ h1).trans
      ((State.readMem_two _ _ _ hlt).trans (State.writeOperand_none _ _ h2))

/-- With every register operand known and a read-only destination, only that fault and `LOADH`'s at 65535 are left of
the effects (R58, R139). -/
theorem Effect.eq_raise_of_readOnly {t : State} {c : HalfWord} {r : RegName} (h : Effect i s t)
    (hc : i.writeOperand = some c) (hr : s.cfg.resolve c = some r) (hro : ¬ writable r)
    (hknown : ∀ o ∈ i.registerOperands, s.cfg.resolve o ≠ none)
    (htop : ∀ a b q, i = .loadh a b → s.cfg.resolve a = some q → (s.reg q).toNat ≠ 65535) :
    t = s.raise (.readOnlyRegisterViolation r) := by
  cases h with
  | wroteReg c' r' v hc' hr' hpc hsp =>
    cases hc.symm.trans hc'
    cases hr.symm.trans hr'
    exact absurd ⟨hpc, hsp⟩ hro
  | roDest c' r' hc' hr' =>
    cases hc.symm.trans hc'
    cases hr.symm.trans hr'
    rfl
  | unknownReg c' hm hn => exact absurd hn (hknown c' hm)
  | loadhTop q hi hq ha => exact absurd ha (htop _ _ q hi hq)
  | stored q n v hi =>
    rw [Instr.writeOperand_of_storeSize (Instr.storeSize_eq_some.2 hi)] at hc; cases hc
  | storedPart q v hi | jumped q q' hi | stayed q q' hi => rw [hi] at hc; cases hc

/-- A legal instruction leaves the run state, or it is a `LOADH` or a `STOREH` at 65535 (R57, R58, R136). -/
theorem Effect.run_of_wellFormed {t : State} (h : Effect i s t) (hwf : i.wellFormed s.cfg = true) :
    t.run = s.run ∨
    (t.run = .faulted (.outOfBoundsAddress 65536) (s.reg .rpc) ∧
      ∃ a b q, (i = .loadh a b ∧ s.cfg.resolve a = some q ∨ i = .storeh a b ∧ s.cfg.resolve b = some q) ∧
        (s.reg q).toNat = 65535) := by
  cases h with
  | wroteReg | stored | jumped | stayed => exact .inl rfl
  | storedPart q v hi hq ha => exact .inr ⟨rfl, _, _, q, .inr ⟨hi, hq⟩, ha⟩
  | loadhTop q hi hq ha => exact .inr ⟨rfl, _, _, q, .inl ⟨hi, hq⟩, ha⟩
  | unknownReg c hm hn => exact absurd hn (Instr.resolve_ne_none_of_wellFormed hwf hm)
  | roDest c r hc hr hro => exact absurd hro (Instr.not_readOnly_of_wellFormed hwf hc hr)

end OperandFaults

/-- Settles O22: the unknown operand is operand1, which is resolved first, or operand2 after a known operand1. -/
theorem firstUnknownRegisterFaults : Obligations.FirstUnknownRegisterFaults := by
  intro i s c hc htop
  refine ⟨s.raise (.unknownRegister c), ?_, faultedWith_raise s _⟩
  rcases Instr.firstUnknown_cases hc with ⟨h1, rfl⟩ | ⟨q, h1, hops, h2, rfl⟩
  · exact exec_op1_unknown h1
  · exact exec_op2_unknown hops h1 h2 fun hi => htop _ _ q hi h1

/-- Settles O23: the effect of the instruction can only be the read-only violation. -/
theorem readOnlyDestinationFaults : Obligations.ReadOnlyDestinationFaults := by
  intro i s c r hc hr hro hknown htop
  obtain ⟨t, ht, hE⟩ := exec_effect i s
  exact ⟨t, ht, hE.eq_raise_of_readOnly hc hr hro hknown htop ▸ faultedWith_raise s _⟩

/-- Settles O24: of the faulting effects a legal instruction has only the two at address 65535. -/
theorem wellFormedFaultsOnlyOutOfBounds : Obligations.WellFormedFaultsOnlyOutOfBounds := by
  intro i s t hwf hs h
  exact hs ▸ (effect_of_exec h).run_of_wellFormed hwf

end Sys2Proof.Machine

/-! PROOFS. The statements of spec/40_execution_cycle.md: the advance, the decoded instruction's place in the cycle, the
fetch that leaves memory, the halt at the sentinel, and the ends of a run (R70 to R80). -/

namespace Sys2Proof.Machine

/-- The run has halted with `RPC` at the sentinel, or it goes on with `RPC` elsewhere (R77). -/
def State.HaltsAtSentinel (t : State) : Prop :=
  (t.run = .halted ↔ t.reg .rpc = t.reg .rsp) ∧ (t.run = .halted ∨ t.run = .running)

/-- Entering `Halted` where `RPC == RSP`, as the boundary test and the halt check both do (R77, R78). -/
theorem State.haltsAtSentinel_setRun_halted {s : State} (h : s.reg .rpc = s.reg .rsp) :
    (s.setRun .halted).HaltsAtSentinel :=
  ⟨⟨fun _ => h, fun _ => rfl⟩, .inl rfl⟩

/-- The halt check of a running machine decides by the sentinel (R77). -/
theorem haltsAtSentinel_haltCheck {s : State} (h : s.run = .running) : (haltCheck s).HaltsAtSentinel := by
  rcases haltCheck_cases s with ⟨e, -, hr⟩ | ⟨e, hne⟩ <;> rw [e]
  · exact State.haltsAtSentinel_setRun_halted hr
  · exact ⟨⟨fun hh => by simp [h] at hh, fun hr => absurd hr (hne h)⟩, .inr h⟩

/-- The halt check of a run that has ended does nothing (R77, R80). -/
theorem haltCheck_stopped {s : State} (h : s.run ≠ .running) : haltCheck s = s := by
  rcases haltCheck_cases s with ⟨-, hrun, -⟩ | ⟨e, -⟩
  · exact absurd hrun h
  · exact e

/-- The device step leaves the run state, or it faults at the cycle's address (R119, R137). -/
theorem deviceStep_run_cases (a : HalfWord) (s : State) :
    (deviceStep a s).run = s.run ∨ ∃ e, (deviceStep a s).run = .faulted e a := by
  rcases deviceStep_cases a s with e | ⟨c, -, -, e⟩ | ⟨c, -, -, e⟩ <;> rw [e]
  · exact .inl rfl
  · exact .inl rfl
  · exact .inr ⟨c, rfl⟩

/-- The rest of a running machine's cycle ends in a device fault or halts exactly at the sentinel (R70, R77). -/
theorem afterInstr_run_cases {a : HalfWord} {s : State} (h : s.run = .running) :
    (∃ e, (afterInstr a s).run = .faulted e a) ∨ (afterInstr a s).HaltsAtSentinel := by
  rw [afterInstr_running h]
  rcases deviceStep_run_cases a s with hrun | ⟨e, hrun⟩
  · exact .inr (haltsAtSentinel_haltCheck (hrun.trans h))
  · exact .inl ⟨e, by rw [haltCheck_stopped (by simp [hrun]), hrun]⟩

/-- A step of a running machine faults at the cycle's address or halts exactly at the sentinel (R77, R78, R137). -/
theorem step_run_cases {s t : State} (hs : s.run = .running) (h : step s = .next t) :
    (∃ e, t.run = .faulted e (s.reg .rpc)) ∨ t.HaltsAtSentinel := by
  rcases step_cases h with ⟨-, hr, rfl⟩ | ⟨hhalt, -⟩ |
    ⟨-, -, ⟨-, rfl⟩ | ⟨I, b, -, -, rfl⟩ | ⟨I, i, u, -, -, he, rfl⟩⟩
  · exact .inr (State.haltsAtSentinel_setRun_halted hr)
  · rw [hs] at hhalt; cases hhalt
  · exact .inl ⟨_, rfl⟩
  · exact .inl ⟨_, rfl⟩
  · rcases (effect_of_exec he).run_cases with hrun | ⟨e, hrun, -⟩
    · exact afterInstr_run_cases (hrun.trans hs)
    · exact .inl ⟨e, by rw [afterInstr_stopped (by simp [hrun]), hrun]⟩

/-- Five cells that decode to an instruction are fetched as a word that does (R51, R71, R72). -/
theorem fetch_of_decode {s : State} {i : Instr} (h : (s.reg .rpc).toNat ≤ 65531)
    (hd : decode [s.byte (s.reg .rpc).toNat, s.byte ((s.reg .rpc).toNat + 1), s.byte ((s.reg .rpc).toNat + 2),
      s.byte ((s.reg .rpc).toNat + 3), s.byte ((s.reg .rpc).toNat + 4)] = .ok i) :
    ∃ I, fetch s = .ok I ∧ decodeWord I = .ok i := by
  obtain ⟨-, hword⟩ := decode_eq_ok_iff.1 hd
  rw [ofNat_bytesToNat_five] at hword
  exact ⟨_, fetch_ok s h, hword⟩

/-- Settles O33: of the two ways a running machine's step can end, the fault is excluded. -/
theorem haltsExactlyAtTheSentinel : Obligations.HaltsExactlyAtTheSentinel := by
  intro s t hs h hnf
  rcases step_run_cases hs h with ⟨e, hrun⟩ | hhalts
  · exact absurd hrun (hnf e _)
  · exact hhalts

/-- Settles O11: the advance is a write of `RPC` by name. -/
theorem advanceAddsFiveModulo : Obligations.AdvanceAddsFiveModulo :=
  fun s => ⟨advanced_advance rfl, regsSameBut_setReg s .rpc _, fun _ => rfl, ⟨rfl, rfl, rfl⟩, rfl⟩

/-- Settles O30: the fetched word decodes to the instruction, and the rest of the cycle follows its run state. -/
theorem stepRunsTheDecodedInstruction : Obligations.StepRunsTheDecodedInstruction := by
  intro s i hs hne hpc hd
  obtain ⟨I, hf, hI⟩ := fetch_of_decode hpc hd
  obtain ⟨t, ht, -⟩ := exec_effect i s
  have hstep : step s = .next (afterInstr (s.reg .rpc) t) := by rw [step_running hs hne, cycle_exec hf hI ht]
  exact ⟨t, ht, fun hrun => by rw [hstep, afterInstr_stopped hrun],
    fun hrun => by rw [hstep, afterInstr_running hrun]⟩

/-- Settles O31: the fetch fails before anything is decoded, and its fault is taken with nothing else changed. -/
theorem fetchPastTheTopFaults : Obligations.FetchPastTheTopFaults := by
  intro s hs hne hpc
  exact ⟨_, by rw [step_running hs hne, cycle_fetchFault (fetch_error s hpc)], faultedWith_raise s _⟩

/-- Settles O32: the halt at the boundary replaces the run state alone, and the empty image leaves both registers at
0. -/
theorem boundaryHaltExecutesNothing : Obligations.BoundaryHaltExecutesNothing :=
  ⟨fun s hs hr =>
      ⟨s.setRun .halted, step_boundary hs hr, rfl, regsSameBut_of_regs rfl [], fun _ => rfl, rfl, rfl, rfl⟩,
    fun _ _ => ⟨rfl, rfl, rfl, rfl⟩⟩

/-- Settles O34, by induction on the number of steps. -/
theorem haltedRunStaysAsItIs : Obligations.HaltedRunStaysAsItIs := by
  intro k s hs
  induction k with
  | zero => exact runSteps_zero s
  | succ k ih => rw [runSteps_next k (step_halted hs), ih]

/-- Settles O35: the first step already answers the fault, so no later one is taken. -/
theorem faultedRunPerformsNoCycle : Obligations.FaultedRunPerformsNoCycle :=
  fun _ k => ⟨fun _ _ h => runSteps_fault k (step_faulted h), fun _ h => runSteps_fault k (step_loadFailed h)⟩

end Sys2Proof.Machine

/-! PROOFS. The statements of spec/41_register_transfer.md: both instructions end in the protected write of a known
value, `SET` of its literal and `MOV` of the register it has read (R85, R86). -/

namespace Sys2Proof.Machine

/-- The ending that the register-writing instructions share: a writable destination gets the value, and the instruction
completes with nothing else changed (R15, R74). -/
theorem State.writeOperand_advance_onlyReg {s : State} {c : HalfWord} {r : RegName} (v : HalfWord)
    (h : s.cfg.resolve c = some r) (hr : writable r) :
    ∃ t, (s.writeOperand c v fun u => .next u.advance) = .next t ∧ t.reg r = v ∧ onlyReg r s t :=
  ⟨_, State.writeOperand_writable v _ h hr.1 hr.2, reg_setReg_advance s v hr, onlyReg_setReg_advance s v hr⟩

/-- Settles O12: 0x03 is the byte of `SET`, whose execution is the write of its destination operand, with one outcome
for each answer of `Resolve`. -/
theorem setWritesItsLiteral : Obligations.SetWritesItsLiteral := by
  intro s op1 op2
  refine ⟨decodeWord_mkWord_opcodeByte .set op1 op2, fun r h hr => ?_, fun r h hr => ?_, fun h => ?_⟩
  · exact State.writeOperand_advance_onlyReg op2 h hr
  · exact ⟨_, State.writeOperand_readOnly op2 _ h ((not_writable_iff r).1 hr), faultedWith_raise s _⟩
  · exact ⟨_, exec_op1_unknown (i := .set op1 op2) h, faultedWith_raise s _⟩

/-- Settles O13: with the source resolved, `MOV` is the write of its value to the destination operand, whichever
register the source is. -/
theorem movCopiesFirstIntoSecond : Obligations.MovCopiesFirstIntoSecond := by
  intro s op1 op2 q r hq hr hw
  rw [exec, execMov, State.readOperand_some _ hq]
  exact State.writeOperand_advance_onlyReg (s.reg q) hr hw

end Sys2Proof.Machine

/-! PROOFS. The statements of spec/42_load_store.md: the loads end in the write of a register with the bytes of memory
(R90, R92), the stores in a new memory and the advance, and the half-word accesses at 65535 in a fault (R91 to R93). -/

namespace Sys2Proof.Machine

/-! ### The frames of the two stores -/

/-- One written byte leaves every other cell alone. -/
theorem memSameBut_setByte (s : State) (a : Nat) (b : Byte) : memSameBut a 1 s (s.setMem (s.mem.setByte a b)) := by
  intro x hx
  rw [State.setMem_byte, Memory.byteAt_setByte, if_neg (by omega)]
  rfl

/-- Two bytes written at adjacent cells leave every other cell alone. -/
theorem memSameBut_setByte_setByte (s : State) (a : Nat) (h l : Byte) :
    memSameBut a 2 s (s.setMem ((s.mem.setByte a h).setByte (a + 1) l)) := by
  intro x hx
  rw [State.setMem_byte, Memory.byteAt_setByte, if_neg (by omega), Memory.byteAt_setByte, if_neg (by omega)]
  rfl

/-- The ending that the storing instructions share: memory is replaced within `n` cells, and the instruction completes
with no register but `RPC` changed (R74). -/
theorem onlyBytes_setMem_advance {s : State} {m : Memory} {b n : Nat} (h : memSameBut b n s (s.setMem m)) :
    onlyBytes b n s (s.setMem m).advance := by
  refine ⟨advanced_advance (s.setMem_reg m .rpc), fun q hq => ?_, h, ⟨rfl, rfl, rfl⟩, rfl⟩
  rw [State.advance_reg, if_neg (by simpa using hq), State.setMem_reg]

/-! ### The statements -/

/-- Settles O14: the one-byte read cannot fault, and the rest is the write of the destination operand. -/
theorem loadZeroExtendsTheByte : Obligations.LoadZeroExtendsTheByte := by
  intro s op1 op2 q r hq hr hw
  rw [exec, execLoad, State.readOperand_some _ hq, State.readMem_one, decToByte_toNat]
  obtain ⟨t, ht, hval, honly⟩ := State.writeOperand_advance_onlyReg (zext16 (s.byte (s.reg q).toNat)) hr hw
  exact ⟨t, ht, by rw [hval, toNat_zext16], honly⟩

/-- Settles O15: the one-byte write cannot fault, and the rest is the advance. -/
theorem storeWritesTheLowByte : Obligations.StoreWritesTheLowByte := by
  intro s op1 op2 q r hq hr
  rw [exec, execStore, State.readOperand_some _ hq, State.readOperand_some _ hr, State.writeMem_one]
  exact ⟨_, rfl, by simp, onlyBytes_setMem_advance (memSameBut_setByte s _ _)⟩

/-- Settles O16: below 65535 the two-byte read gives the half-word to be written to the destination; at 65535 it faults
before operand2 is resolved. -/
theorem loadhReadsTwoBytesHighFirst : Obligations.LoadhReadsTwoBytesHighFirst := by
  intro s op1 op2 q hq
  refine ⟨fun r hr hw hlt => ?_, fun htop => ?_⟩
  · exact ⟨_, exec_loadh_below_top hq hr hw hlt, by rw [reg_setReg_advance _ _ hw, toNat_hw],
      onlyReg_setReg_advance s _ hw⟩
  · rw [exec, execLoadh, State.readOperand_some _ hq, State.readMem_two_top _ _ _ htop]
    exact ⟨_, rfl, faultedWith_raise s _⟩

/-- Settles O17: below 65535 both bytes are written and the instruction completes; at 65535 the high byte stands when
the fault of the low byte's index is taken. -/
theorem storehWritesTwoBytesHighFirst : Obligations.StorehWritesTwoBytesHighFirst := by
  intro s op1 op2 q r hq hr
  refine ⟨fun hlt => ?_, fun htop => ?_⟩
  · exact ⟨_, exec_storeh_below_top hq hr hlt, by simp, by simp,
      onlyBytes_setMem_advance (memSameBut_setByte_setByte s _ _ _)⟩
  · rw [exec, execStoreh, State.readOperand_some _ hq, State.readOperand_some _ hr,
      State.writeMem_two_top _ _ _ _ htop]
    exact ⟨_, rfl, rfl, by simp, memSameBut_setByte s _ _, fun _ _ => rfl, rfl, rfl, rfl⟩

end Sys2Proof.Machine

/-! PROOFS. The statements of spec/43_arithmetic.md: `ADD` and `SUB` read both operands before the protected write of
operand1, so the written value is the wrapped sum or difference of the old values (R100 to R102). -/

namespace Sys2Proof.Machine

/-! ### The values of the wrapped sum and difference -/

@[simp] theorem toNat_addWrap (a b : HalfWord) : (addWrap a b).toNat = (a.toNat + b.toNat) % 65536 :=
  toNat_decToHalfWord _

/-- R101's equivalent form: the integer difference, reduced, is the natural one with 65536 added first. -/
@[simp] theorem toNat_subWrap (a b : HalfWord) : (subWrap a b).toNat = (a.toNat + 65536 - b.toNat) % 65536 := by
  have hb : b.toNat < 65536 := b.isLt
  rw [subWrap, halfWordToDec, halfWordToDec, toNat_decToHalfWord]
  omega

/-! ### The statements -/

/-- Settles O18: with both operands resolved, `ADD` is the write of the wrapped sum to operand1. -/
theorem addWrapsModulo : Obligations.AddWrapsModulo := by
  intro s op1 op2 r q hr hq hw
  rw [exec, execAdd, State.readOperand_some _ hr, State.readOperand_some _ hq, ← toNat_addWrap]
  obtain ⟨t, ht, hval, honly⟩ := State.writeOperand_advance_onlyReg (addWrap (s.reg r) (s.reg q)) hr hw
  exact ⟨t, ht, congrArg BitVec.toNat hval, honly⟩

/-- Settles O19: with both operands resolved, `SUB` is the write of the wrapped difference to operand1. -/
theorem subWrapsModulo : Obligations.SubWrapsModulo := by
  intro s op1 op2 r q hr hq hw
  rw [exec, execSub, State.readOperand_some _ hr, State.readOperand_some _ hq, ← toNat_subWrap]
  obtain ⟨t, ht, hval, honly⟩ := State.writeOperand_advance_onlyReg (subWrap (s.reg r) (s.reg q)) hr hw
  exact ⟨t, ht, congrArg BitVec.toNat hval, honly⟩

end Sys2Proof.Machine

/-! PROOFS. The statements of spec/44_control_transfer.md: `CJUMP` sets `RPC` or does nothing (R105, R106), so that a
jump that is not taken is fetched again from the same registers and memory. A step of such a machine only appends to the
trace, which no part of a cycle reads. -/

namespace Sys2Proof.Machine

/-! ### The two ways of the jump -/

section Cjump

variable {s : State} {op1 op2 : HalfWord} {q r : RegName} (hq : s.cfg.resolve op1 = some q)
  (hr : s.cfg.resolve op2 = some r)
include hq hr

/-- The jump taken (R105). -/
theorem exec_cjump_zero (hz : (s.reg r).toNat = 0) :
    exec (.cjump op1 op2) s = .next (s.setReg .rpc (s.reg q)) := by
  rw [exec, execCjump, State.readOperand_some _ hq, State.readOperand_some _ hr]
  exact if_pos (beq_iff_eq.2 hz)

/-- The jump not taken (R106). -/
theorem exec_cjump_nonzero (hz : (s.reg r).toNat ≠ 0) : exec (.cjump op1 op2) s = .next s := by
  rw [exec, execCjump, State.readOperand_some _ hq, State.readOperand_some _ hr]
  exact if_neg fun h => hz (beq_iff_eq.1 h)

end Cjump

/-! ### The device step, by the answer of the poll -/

section DeviceStep

variable {s : State} (a : HalfWord)

/-- The adapter is skipped with `ENABLE_DEVICE` false (R28, R110). -/
theorem deviceStep_disabled (hen : s.enableDevice = false) : deviceStep a s = s := by
  simp [deviceStep, hen]

theorem deviceStep_idle (hen : s.enableDevice = true) (hp : devicePoll s.cfg s.mem = .ok none) :
    deviceStep a s = s := by
  simp [deviceStep, deviceBusCycle, hen, hp]

theorem deviceStep_emit {c : Command} (hen : s.enableDevice = true)
    (hp : devicePoll s.cfg s.mem = .ok (some c)) : deviceStep a s = s.emit c := by
  simp [deviceStep, deviceBusCycle, hen, hp]

theorem deviceStep_fault {e : Cause} (hen : s.enableDevice = true)
    (hp : devicePoll s.cfg s.mem = .error e) : deviceStep a s = s.raiseAt a e := by
  simp [deviceStep, deviceBusCycle, hen, hp]

end DeviceStep

/-! ### The trace replaced -/

/-- The state with another trace: all that a step at a jump not taken changes. -/
def State.withTrace (s : State) (tr : List Command) : State := { s with trace := tr }

@[simp] theorem State.withTrace_reg (s : State) (tr : List Command) (q : RegName) :
    (s.withTrace tr).reg q = s.reg q := rfl

/-- Fetch and decode do not read the trace (R71). -/
@[simp] theorem State.withTrace_nextInstr (s : State) (tr : List Command) :
    (s.withTrace tr).nextInstr = s.nextInstr := rfl

/-- The device step does not read the trace: the run state it leaves and the commands it appends are the same whatever
the trace is (R110, R119). -/
theorem deviceStep_withTrace (a : HalfWord) (s : State) :
    ∃ run cs, ∀ tr, deviceStep a (s.withTrace tr) = (s.withTrace (tr ++ cs)).setRun run := by
  cases hen : s.enableDevice with
  | false => exact ⟨s.run, [], fun tr => by rw [List.append_nil]; exact deviceStep_disabled a hen⟩
  | true =>
    cases hp : devicePoll s.cfg s.mem with
    | error e => exact ⟨.faulted e a, [], fun tr => by rw [List.append_nil]; exact deviceStep_fault a hen hp⟩
    | ok o =>
      cases o with
      | none => exact ⟨s.run, [], fun tr => by rw [List.append_nil]; exact deviceStep_idle a hen hp⟩
      | some c => exact ⟨s.run, [c], fun _ => deviceStep_emit a hen hp⟩

/-- A device step that only appends commands appends them to every trace: the standing command is emitted again
(R119, R124). -/
theorem deviceStep_withTrace_append {a : HalfWord} {s : State} {cs : List Command}
    (h : deviceStep a s = s.withTrace (s.trace ++ cs)) (tr : List Command) :
    deviceStep a (s.withTrace tr) = s.withTrace (tr ++ cs) := by
  obtain ⟨run, ds, hall⟩ := deviceStep_withTrace a s
  have hstate : (s.withTrace (s.trace ++ ds)).setRun run = s.withTrace (s.trace ++ cs) := (hall s.trace).symm.trans h
  have hrun : run = s.run := congrArg State.run hstate
  have hds : ds = cs := List.append_cancel_left (congrArg State.trace hstate)
  rw [hall, hrun, hds]
  rfl

/-! ### The step at a jump not taken -/

/-- A step of a running machine away from its sentinel is its next instruction and the rest of the cycle (R70, R78). -/
theorem step_of_nextInstr {s t : State} {i : Instr} (hrun : s.run = .running) (hne : s.reg .rpc ≠ s.reg .rsp)
    (hi : s.nextInstr = some i) (he : exec i s = .next t) : step s = .next (afterInstr (s.reg .rpc) t) := by
  obtain ⟨I, hfetch, hdecode⟩ := nextInstr_some hi
  rw [step_running hrun hne, cycle_exec hfetch hdecode he]

/-- The halt check away from the sentinel does nothing (R77). -/
theorem haltCheck_of_ne {s : State} (hne : s.reg .rpc ≠ s.reg .rsp) : haltCheck s = s := by
  rcases haltCheck_cases s with ⟨-, -, hr⟩ | ⟨e, -⟩
  · exact absurd hr hne
  · exact e

/-- Away from the sentinel, a step whose instruction changes nothing is the device step alone (R70). -/
theorem step_of_exec_self {s : State} {i : Instr} (hrun : s.run = .running) (hne : s.reg .rpc ≠ s.reg .rsp)
    (hi : s.nextInstr = some i) (he : exec i s = .next s) : step s = .next (deviceStep (s.reg .rpc) s) := by
  have hne' : (deviceStep (s.reg .rpc) s).reg .rpc ≠ (deviceStep (s.reg .rpc) s).reg .rsp := by
    simpa [State.reg] using hne
  rw [step_of_nextInstr hrun hne hi he, afterInstr_running hrun, haltCheck_of_ne hne']

/-- A step that appends `cs` to every trace has after `n` steps appended it `n` times. -/
theorem runSteps_withTrace {s : State} {cs : List Command}
    (hstep : ∀ tr, step (s.withTrace tr) = .next (s.withTrace (tr ++ cs))) (n : Nat) (tr : List Command) :
    runSteps n (s.withTrace tr) = .next (s.withTrace (tr ++ (List.replicate n cs).flatten)) := by
  induction n generalizing tr with
  | zero => simp
  | succ n ih => rw [runSteps_next n (hstep tr), ih, List.replicate_succ, List.flatten_cons, List.append_assoc]

/-! ### The statements -/

/-- Settles O45: at a jump not taken every step appends the device step's commands and keeps all else, whatever
the trace before it. -/
theorem nonTakenJumpRepeatsForEver : Obligations.NonTakenJumpRepeatsForEver := by
  intro n s op1 op2 q r cs hrun hne hi hq hr hz hdev
  have hstep : ∀ tr, step (s.withTrace tr) = .next (s.withTrace (tr ++ cs)) := by
    intro tr
    have hstay : exec (.cjump op1 op2) (s.withTrace tr) = .next (s.withTrace tr) :=
      exec_cjump_nonzero (s := s.withTrace tr) hq hr hz
    rw [step_of_exec_self (s := s.withTrace tr) hrun hne ((s.withTrace_nextInstr tr).trans hi) hstay,
      State.withTrace_reg, deviceStep_withTrace_append hdev]
  exact runSteps_withTrace hstep n s.trace

/-- Settles O20: with both operands resolved, the jump taken writes `RPC` by name and the jump not taken writes
nothing. -/
theorem cjumpJumpsIffZero : Obligations.CjumpJumpsIffZero := by
  intro s op1 op2 q r hq hr
  refine ⟨fun hz => ?_, exec_cjump_nonzero hq hr⟩
  exact ⟨_, exec_cjump_zero hq hr hz, by simp, regsSameBut_setReg s .rpc _, fun _ => rfl, ⟨rfl, rfl, rfl⟩, rfl⟩

end Sys2Proof.Machine

/-! PROOFS. The statements of spec/50_device_bus.md: one equation for each answer of the poll, from which the device
step is read off; the poll as a function of seven cells (R119); and the run with the device disabled as a simulation of
the run with it, whose single step goes through every operation that an instruction is made of (R122). -/

namespace Sys2Proof.Machine

/-! ### The poll, by the meaning of the byte on the bus -/

section Poll

variable {s : State}

theorem devicePoll_idle (h : s.cfg.devop (s.byte s.cfg.deviceBusAddr.toNat) = .idle) :
    devicePoll s.cfg s.mem = .ok none := by
  simp [devicePoll, read_deviceByte, h]

theorem devicePoll_draw (h : s.cfg.devop (s.byte s.cfg.deviceBusAddr.toNat) = .draw) :
    devicePoll s.cfg s.mem = .ok (some .draw) := by
  simp [devicePoll, read_deviceByte, h]

theorem devicePoll_clear (h : s.cfg.devop (s.byte s.cfg.deviceBusAddr.toNat) = .clear) :
    devicePoll s.cfg s.mem = .ok (some .clear) := by
  simp [devicePoll, read_deviceByte, h]

theorem devicePoll_unknown (h : s.cfg.devop (s.byte s.cfg.deviceBusAddr.toNat) = .unknown) :
    devicePoll s.cfg s.mem = .error (.unknownOpcodeDevice (s.byte s.cfg.deviceBusAddr.toNat)) := by
  simp [devicePoll, read_deviceByte, h]

/-- The command in the six payload cells at the device bus (R113). -/
def State.payloadCommand (s : State) : Command :=
  pixelCommand (hw (s.byte (s.cfg.deviceBusAddr.toNat + 1)) (s.byte (s.cfg.deviceBusAddr.toNat + 2)))
    (hw (s.byte (s.cfg.deviceBusAddr.toNat + 3)) (s.byte (s.cfg.deviceBusAddr.toNat + 4)))
    (hw (s.byte (s.cfg.deviceBusAddr.toNat + 5)) (s.byte (s.cfg.deviceBusAddr.toNat + 6)))

/-- `BUFFER` with the seven cells inside memory (R113). -/
theorem devicePoll_buffer (hbus : s.cfg.busWf) (h : s.cfg.devop (s.byte s.cfg.deviceBusAddr.toNat) = .buffer) :
    devicePoll s.cfg s.mem = .ok (some s.payloadCommand) := by
  have hpay : readPayload s.mem s.cfg.deviceBusAddr.toNat = .ok s.payloadCommand := readPayload_ok s.mem _ hbus
  simp [devicePoll, read_deviceByte, h, hpay]

/-- `BUFFER` with the payload past the last cell (R113, R136). -/
theorem devicePoll_buffer_top (htop : 65529 < s.cfg.deviceBusAddr.toNat)
    (h : s.cfg.devop (s.byte s.cfg.deviceBusAddr.toNat) = .buffer) :
    devicePoll s.cfg s.mem = .error (.outOfBoundsAddress 65536) := by
  have hpay := readPayload_error s.mem _ (Nat.le_of_lt_succ s.cfg.deviceBusAddr.isLt) htop
  simp [devicePoll, read_deviceByte, h, hpay]

/-- With the seven cells inside memory the only fault of a poll is the unknown byte (R118, R123). -/
theorem devicePoll_error_of_busWf {e : Cause} (hbus : s.cfg.busWf) (h : devicePoll s.cfg s.mem = .error e) :
    ∃ d, e = .unknownOpcodeDevice d := by
  cases hop : s.cfg.devop (s.byte s.cfg.deviceBusAddr.toNat) with
  | idle => cases (devicePoll_idle hop).symm.trans h
  | buffer => cases (devicePoll_buffer hbus hop).symm.trans h
  | draw => cases (devicePoll_draw hop).symm.trans h
  | clear => cases (devicePoll_clear hop).symm.trans h
  | unknown => cases (devicePoll_unknown hop).symm.trans h; exact ⟨_, rfl⟩

/-- The poll is a function of the configuration and the seven cells at the bus (R119). -/
theorem devicePoll_congr {u : State} (hcfg : s.cfg = u.cfg) (hbus : s.cfg.busWf)
    (hcells : ∀ j, j < 7 → s.byte (s.cfg.deviceBusAddr.toNat + j) = u.byte (s.cfg.deviceBusAddr.toNat + j)) :
    devicePoll s.cfg s.mem = devicePoll u.cfg u.mem := by
  rw [hcfg] at hbus hcells
  have h0 : s.byte u.cfg.deviceBusAddr.toNat = u.byte u.cfg.deviceBusAddr.toNat := hcells 0 (by decide)
  have hop : s.cfg.devop (s.byte s.cfg.deviceBusAddr.toNat) = u.cfg.devop (u.byte u.cfg.deviceBusAddr.toNat) := by
    rw [hcfg, h0]
  cases hu : u.cfg.devop (u.byte u.cfg.deviceBusAddr.toNat) with
  | idle => rw [devicePoll_idle (hop.trans hu), devicePoll_idle hu]
  | draw => rw [devicePoll_draw (hop.trans hu), devicePoll_draw hu]
  | clear => rw [devicePoll_clear (hop.trans hu), devicePoll_clear hu]
  | unknown => rw [devicePoll_unknown (hop.trans hu), devicePoll_unknown hu, hcfg, h0]
  | buffer =>
    have hpay : s.payloadCommand = u.payloadCommand := by
      rw [State.payloadCommand, hcfg, hcells 1 (by decide), hcells 2 (by decide), hcells 3 (by decide),
        hcells 4 (by decide), hcells 5 (by decide), hcells 6 (by decide)]
      rfl
    rw [devicePoll_buffer (hcfg ▸ hbus) (hop.trans hu), devicePoll_buffer hbus hu, hpay]

end Poll

/-! ### The colour channels -/

theorem redField_eq (c : HalfWord) : redField c = c.toNat / 2048 := by
  have hlt := c.isLt
  rw [redField, BitVec.extractLsb'_toNat, Nat.shiftRight_eq_div_pow]
  omega

theorem greenField_eq (c : HalfWord) : greenField c = c.toNat / 32 % 64 := by
  simp [greenField, Nat.shiftRight_eq_div_pow]

theorem blueField_eq (c : HalfWord) : blueField c = c.toNat % 32 := by
  simp [blueField]

/-- The command of a payload, its channels written as quotients (R114, R115). -/
theorem pixelCommand_eq (x y c : HalfWord) :
    pixelCommand x y c = .setPixel x y (((c.toNat / 2048 : Nat) : Rat) * 255 / 31)
      (((c.toNat / 32 % 64 : Nat) : Rat) * 255 / 63) (((c.toNat % 32 : Nat) : Rat) * 255 / 31) := by
  rw [pixelCommand, norm_eq, norm_eq, norm_eq, redField_eq, greenField_eq, blueField_eq]
  norm_num

/-! ### The device step -/

/-- Device steps with the same poll leave the same run state and append the same commands (R110, R119). -/
theorem deviceStep_congr (a : HalfWord) {s u : State} (hen : s.enableDevice = u.enableDevice) (hrun : s.run = u.run)
    (hpoll : devicePoll s.cfg s.mem = devicePoll u.cfg u.mem) :
    (deviceStep a s).run = (deviceStep a u).run ∧
    ∃ cs, (deviceStep a s).trace = s.trace ++ cs ∧ (deviceStep a u).trace = u.trace ++ cs := by
  cases hu : u.enableDevice with
  | false =>
    rw [deviceStep_disabled a (hen.trans hu), deviceStep_disabled a hu]
    exact ⟨hrun, [], by simp⟩
  | true =>
    have hs := hen.trans hu
    cases hp : devicePoll u.cfg u.mem with
    | error e =>
      rw [deviceStep_fault a hs (hpoll.trans hp), deviceStep_fault a hu hp]
      exact ⟨rfl, [], by simp⟩
    | ok o =>
      cases o with
      | none =>
        rw [deviceStep_idle a hs (hpoll.trans hp), deviceStep_idle a hu hp]
        exact ⟨hrun, [], by simp⟩
      | some c =>
        rw [deviceStep_emit a hs (hpoll.trans hp), deviceStep_emit a hu hp]
        exact ⟨hrun, [c], rfl, rfl⟩

/-- A device fault ends the step of a completed instruction: it is taken at the instruction's address, with the
instruction's effects standing and nothing emitted (R80, R123, R137). -/
theorem step_deviceFault {s t : State} {i : Instr} {e : Cause} (hrun : s.run = .running)
    (hne : s.reg .rpc ≠ s.reg .rsp) (hi : s.nextInstr = some i) (he : exec i s = .next t) (ht : t.run = .running)
    (hen : t.enableDevice = true) (hp : devicePoll t.cfg t.mem = .error e) :
    ∃ u, step s = .next u ∧ u.run = .faulted e (s.reg .rpc) ∧ regsSameBut [] t u ∧ memSame t u ∧ surroundSame t u := by
  have hstep : step s = .next (t.raiseAt (s.reg .rpc) e) := by
    rw [step_of_nextInstr hrun hne hi he, afterInstr_running ht, deviceStep_fault _ hen hp,
      haltCheck_stopped (by simp)]
  exact ⟨_, hstep, rfl, fun _ _ => rfl, fun _ => rfl, rfl, rfl, rfl⟩

/-! ### The machine without its device -/

/-- The outcome of an instruction with the device disabled in the next state. -/
def withoutDeviceResult : Result → Result
  | .next t => .next t.withoutDevice
  | .fault f => .fault f
  | .refused r => .refused r

section WithoutDevice

variable (s : State)

@[simp] theorem State.withoutDevice_mem : s.withoutDevice.mem = s.mem := rfl

/-- The protected write uses neither `ENABLE_DEVICE` nor the trace (R15). -/
theorem State.writeOperand_withoutDevice (c v : HalfWord) {k : State → Result}
    (hk : ∀ t : State, k t.withoutDevice = withoutDeviceResult (k t)) :
    s.withoutDevice.writeOperand c v k = withoutDeviceResult (s.writeOperand c v k) := by
  cases hc : s.cfg.resolve c with
  | none => rw [State.writeOperand_none v k hc, State.writeOperand_none (s := s.withoutDevice) v k hc]; rfl
  | some r =>
    by_cases hr : r = .rpc ∨ r = .rsp
    · rw [State.writeOperand_readOnly v k hc hr, State.writeOperand_readOnly (s := s.withoutDevice) v k hc hr]; rfl
    · obtain ⟨hpc, hsp⟩ := not_or.1 hr
      rw [State.writeOperand_writable v k hc hpc hsp,
        State.writeOperand_writable (s := s.withoutDevice) v k hc hpc hsp]
      exact hk (s.setReg r v)

/-- The read of a register operand uses neither `ENABLE_DEVICE` nor the trace (R14). -/
theorem State.readOperand_withoutDevice (c : HalfWord) {k k' : HalfWord → Result}
    (hk : ∀ v, k' v = withoutDeviceResult (k v)) :
    s.withoutDevice.readOperand c k' = withoutDeviceResult (s.readOperand c k) := by
  cases hc : s.cfg.resolve c with
  | none => rw [State.readOperand_none k hc, State.readOperand_none (s := s.withoutDevice) k' hc]; rfl
  | some r =>
    rw [State.readOperand_some k hc, State.readOperand_some (s := s.withoutDevice) k' hc]
    exact hk (s.reg r)

/-- The read of memory uses neither `ENABLE_DEVICE` nor the trace (R33). -/
theorem State.readMem_withoutDevice (a n : Nat) {k k' : Nat → Result}
    (hk : ∀ v, k' v = withoutDeviceResult (k v)) :
    s.withoutDevice.readMem a n k' = withoutDeviceResult (s.readMem a n k) := by
  unfold State.readMem
  rw [State.withoutDevice_mem]
  cases s.mem.read a n with
  | ok v => exact hk v
  | error e => rfl

/-- The write of memory uses neither `ENABLE_DEVICE` nor the trace (R34). -/
theorem State.writeMem_withoutDevice (a n v : Nat) {k : State → Result}
    (hk : ∀ t : State, k t.withoutDevice = withoutDeviceResult (k t)) :
    s.withoutDevice.writeMem a n v k = withoutDeviceResult (s.writeMem a n v k) := by
  unfold State.writeMem
  rw [State.withoutDevice_mem]
  cases (s.mem.write a n v).2 with
  | none => exact hk (s.setMem _)
  | some e => rfl

/-- An instruction reads neither `ENABLE_DEVICE` nor the trace (R17, R110). -/
theorem exec_withoutDevice (i : Instr) : exec i s.withoutDevice = withoutDeviceResult (exec i s) := by
  cases i with
  | set a b => exact s.writeOperand_withoutDevice a b fun _ => rfl
  | mov a b => exact s.readOperand_withoutDevice a fun v => s.writeOperand_withoutDevice b v fun _ => rfl
  | add a b | sub a b =>
    exact s.readOperand_withoutDevice a fun _ => s.readOperand_withoutDevice b fun _ =>
      s.writeOperand_withoutDevice a _ fun _ => rfl
  | load a b | loadh a b =>
    exact s.readOperand_withoutDevice a fun _ => s.readMem_withoutDevice _ _ fun _ =>
      s.writeOperand_withoutDevice b _ fun _ => rfl
  | store a b | storeh a b =>
    exact s.readOperand_withoutDevice a fun _ => s.readOperand_withoutDevice b fun _ =>
      s.writeMem_withoutDevice _ _ _ fun _ => rfl
  | cjump a b =>
    refine s.readOperand_withoutDevice a fun target => s.readOperand_withoutDevice b fun v => ?_
    cases isZero v with
    | true => rfl
    | false => rfl

end WithoutDevice

/-- The halt check reads neither `ENABLE_DEVICE` nor the trace (R77). -/
theorem haltCheck_withoutDevice (s : State) : haltCheck s.withoutDevice = (haltCheck s).withoutDevice := by
  rcases haltCheck_cases s with ⟨e, hrun, hr⟩ | ⟨e, hgo⟩ <;>
    rcases haltCheck_cases s.withoutDevice with ⟨e', hrun', hr'⟩ | ⟨e', hgo'⟩
  · rw [e, e']; rfl
  · exact absurd hr (hgo' hrun)
  · exact absurd hr' (hgo hrun')
  · rw [e, e']

/-- The run has not been ended by an unknown byte on the device bus: the condition of R122. -/
def State.NoDeviceFault (t : State) : Prop := ∀ d a, t.run ≠ .faulted (.unknownOpcodeDevice d) a

/-- A device step without a fault changes nothing but the trace (R119). -/
theorem withoutDevice_deviceStep {a : HalfWord} {s : State} (hbus : s.cfg.busWf)
    (hno : (deviceStep a s).NoDeviceFault) : (deviceStep a s).withoutDevice = s.withoutDevice := by
  rcases deviceStep_cases a s with e | ⟨c, -, -, e⟩ | ⟨c, -, hp, e⟩
  · rw [e]
  · rw [e]; rfl
  · obtain ⟨d, rfl⟩ := devicePoll_error_of_busWf hbus hp
    exact absurd (congrArg State.run e) (hno d a)

/-- The halt check keeps a device fault (R77, R80). -/
theorem State.NoDeviceFault.of_haltCheck {s : State} (h : (haltCheck s).NoDeviceFault) : s.NoDeviceFault := by
  intro d a hrun
  rw [haltCheck_stopped (by simp [hrun])] at h
  exact h d a hrun

/-- The rest of a cycle without a device fault, with the device disabled (R70, R122). -/
theorem afterInstr_withoutDevice {a : HalfWord} {s : State} (hbus : s.cfg.busWf)
    (hno : (afterInstr a s).NoDeviceFault) : afterInstr a s.withoutDevice = (afterInstr a s).withoutDevice := by
  by_cases hrun : s.run = .running
  · rw [afterInstr_running hrun] at hno ⊢
    rw [afterInstr_running (s := s.withoutDevice) hrun, deviceStep_disabled a rfl, ← haltCheck_withoutDevice,
      withoutDevice_deviceStep hbus hno.of_haltCheck]
  · rw [afterInstr_stopped hrun, afterInstr_stopped (s := s.withoutDevice) hrun]

/-- The simulation at one step (R122). -/
theorem step_withoutDevice {s t : State} (hbus : s.cfg.busWf) (h : step s = .next t) (hno : t.NoDeviceFault) :
    step s.withoutDevice = .next t.withoutDevice := by
  rcases step_cases h with ⟨hrun, hr, rfl⟩ | ⟨hrun, rfl⟩ |
    ⟨hrun, hne, ⟨htop, rfl⟩ | ⟨I, b, hf, hd, rfl⟩ | ⟨I, i, u, hf, hd, he, rfl⟩⟩
  · exact step_boundary (s := s.withoutDevice) hrun hr
  · exact step_halted (s := t.withoutDevice) hrun
  · rw [step_running (s := s.withoutDevice) hrun hne]
    exact cycle_fetchFault (fetch_error s.withoutDevice htop)
  · rw [step_running (s := s.withoutDevice) hrun hne]
    exact cycle_illegal (s := s.withoutDevice) hf hd
  · obtain ⟨-, -, hcfg⟩ := (effect_of_exec he).surround
    have he' : exec i s.withoutDevice = .next u.withoutDevice := by rw [exec_withoutDevice, he]; rfl
    rw [step_running (s := s.withoutDevice) hrun hne, cycle_exec (s := s.withoutDevice) hf hd he',
      ← afterInstr_withoutDevice (hcfg ▸ hbus) hno]
    rfl

/-- No step leads out of a device fault (R80, R141). -/
theorem State.NoDeviceFault.of_runSteps {k : Nat} {s t : State} (hno : t.NoDeviceFault) (h : runSteps k s = .next t) :
    s.NoDeviceFault := by
  intro d a hrun
  cases k with
  | zero => cases h; exact hno d a hrun
  | succ k => cases (runSteps_fault k (step_faulted hrun)).symm.trans h

/-! ### The statements -/

/-- Settles O44, by induction on the number of steps: each is simulated, since a device fault at any of them would have
ended the run. -/
theorem disabledDeviceRunsTheSame : Obligations.DisabledDeviceRunsTheSame := by
  intro k s t hbus h hno
  induction k generalizing s with
  | zero => cases h; rfl
  | succ k ih =>
    obtain ⟨u, hu, hk⟩ := runSteps_succ h
    obtain ⟨-, -, hcfg⟩ := step_constants hu
    rw [runSteps_next k (step_withoutDevice hbus hu (State.NoDeviceFault.of_runSteps hno hk))]
    exact ih u (hcfg ▸ hbus) hk

/-- Settles O42: the frame of the device step, and the poll as a function of the seven cells. -/
theorem deviceStepOnlyReadsSevenCells : Obligations.DeviceStepOnlyReadsSevenCells := by
  refine ⟨fun a s => ?_, fun a s u hcfg hen hbus hs hu hcells => ?_⟩
  · exact ⟨regsSameBut_of_regs (deviceStep_regs a s) [], fun x => congrArg (Memory.byteAt · x) (deviceStep_mem a s),
      deviceStep_cfg a s, deviceStep_enableDevice a s⟩
  · exact deviceStep_congr a hen (hs.trans hu.symm) (devicePoll_congr hcfg hbus hcells)

/-- Settles O38: the step is skipped, or it polls an idle byte. -/
theorem deviceStepIsSkippedOrIdle : Obligations.DeviceStepIsSkippedOrIdle := by
  intro a s h
  cases hen : s.enableDevice with
  | false => exact deviceStep_disabled a hen
  | true =>
    rcases h with hoff | hidle
    · rw [hen] at hoff; cases hoff
    · exact deviceStep_idle a hen (devicePoll_idle hidle)

/-- Settles O39: the payload's command is emitted, and its colour fields are quotients and remainders of the third
half-word. -/
theorem bufferEmitsSetPixel : Obligations.BufferEmitsSetPixel := by
  intro a s hen hbus hop
  refine ⟨_, _, _, toNat_hw _ _, toNat_hw _ _, rfl, ?_⟩
  rw [deviceStep_emit a hen (devicePoll_buffer hbus hop), State.payloadCommand, pixelCommand_eq, toNat_hw]

/-- Settles O40: neither poll reads a payload. -/
theorem drawAndClearEmitTheirCommand : Obligations.DrawAndClearEmitTheirCommand :=
  fun a _ hen => ⟨fun hop => deviceStep_emit a hen (devicePoll_draw hop),
    fun hop => deviceStep_emit a hen (devicePoll_clear hop)⟩

/-- Settles O41: the poll after the completed instruction faults at the unknown byte. -/
theorem unknownDeviceByteFaultsAfterTheInstruction : Obligations.UnknownDeviceByteFaultsAfterTheInstruction :=
  fun _ _ _ hrun hne hi he ht hen hop => step_deviceFault hrun hne hi he ht hen (devicePoll_unknown hop)

/-- Settles O56: the poll after the completed instruction faults in reading the payload. -/
theorem bufferPastTheTopFaultsAfterTheInstruction : Obligations.BufferPastTheTopFaultsAfterTheInstruction :=
  fun _ _ _ hrun hne hi he ht hen htop hop => step_deviceFault hrun hne hi he ht hen (devicePoll_buffer_top htop hop)

end Sys2Proof.Machine

/-! PROOFS. The statements of spec/60_exceptions.md: what a fault leaves unchanged, the address it reports, and the
three answers a step can give (R137, R138, R149). -/

namespace Sys2Proof.Machine

/-! ### What a fault leaves unchanged -/

/-- No write reaches a cell past the top of memory (R32, R34). -/
theorem Memory.byteAt_writeBytes_past (m : Memory) (bs : List Byte) (a : Nat) {x : Nat} (hx : memSize ≤ x) :
    (m.writeBytes a bs).1.byteAt x = m.byteAt x := by
  induction bs generalizing m a with
  | nil => rfl
  | cons b bs ih =>
    unfold Memory.writeBytes
    split
    · next ha => rw [ih, Memory.byteAt_setByte, if_neg (by omega)]
    · rfl

/-- A write that starts at the last cell changes that cell alone, whatever its length (R34). -/
theorem memSameBut_write_top (s : State) (n v : Nat) : memSameBut 65535 1 s (s.setMem (s.mem.write 65535 n v).1) := by
  intro x hx
  rw [State.setMem_byte]
  rcases hx with hlow | hpast
  · exact s.mem.byteAt_write_outside 65535 n v x (.inl hlow)
  · exact s.mem.byteAt_writeBytes_past _ 65535 hpast

/-- Of the effects that fault, only `STOREH` at 65535 has written anything (R138). -/
theorem Effect.mem_of_faulted {i : Instr} {s t : State} {e : Cause} {a : HalfWord} (h : Effect i s t)
    (hs : s.run = .running) (hf : t.run = .faulted e a) :
    memSame s t ∨ (e = .outOfBoundsAddress 65536 ∧ (∃ x y, i = .storeh x y) ∧ memSameBut 65535 1 s t) := by
  cases h with
  | wroteReg | stored | jumped | stayed => cases hs.symm.trans hf
  | unknownReg | roDest | loadhTop => exact .inl fun _ => rfl
  | storedPart r v hi hr ha =>
    cases hf
    exact .inr ⟨rfl, ⟨_, _, hi⟩, ha ▸ memSameBut_write_top s 2 v⟩

/-- Settles O25: the effect's fault keeps the registers and reports `RPC`, no effect touches the surroundings, and only
`STOREH`'s has touched memory. -/
theorem faultLeavesNoPartialEffectButStoreh : Obligations.FaultLeavesNoPartialEffectButStoreh := by
  intro i s t e a hs h hf
  have hE : Effect i s t := effect_of_exec h
  rcases hE.run_cases with hrun | ⟨e', hrun, hregs, -⟩
  · cases hs.symm.trans (hrun.symm.trans hf)
  · cases hrun.symm.trans hf
    exact ⟨rfl, regsSameBut_of_regs hregs [], hE.surround, hE.mem_of_faulted hs hf⟩

/-! ### The answers of a step -/

/-- The run was aborted, by a fault or at the load, and `f` is what the host is told of it (R80, R141, R160). -/
def State.AbortedWith (s : State) (f : Fault) : Prop :=
  (∃ e a, s.run = .faulted e a ∧ f = .runFaulted e a) ∨ (∃ e, s.run = .loadFailed e ∧ f = .loadFailed e)

/-- An aborted run performs no cycle: the step answers the abort (R80). -/
theorem State.AbortedWith.step_eq {s : State} {f : Fault} (h : s.AbortedWith f) : step s = .fault f := by
  rcases h with ⟨e, a, hrun, rfl⟩ | ⟨e, hrun, rfl⟩
  · exact step_faulted hrun
  · exact step_loadFailed hrun

/-- A run is unended or aborted (R149). -/
theorem State.unended_or_aborted (s : State) : (s.run = .running ∨ s.run = .halted) ∨ ∃ f, s.AbortedWith f := by
  cases hrun : s.run with
  | running => exact .inl (.inl rfl)
  | halted => exact .inl (.inr rfl)
  | faulted e a => exact .inr ⟨_, .inl ⟨e, a, hrun, rfl⟩⟩
  | loadFailed e => exact .inr ⟨_, .inr ⟨e, hrun, rfl⟩⟩

/-- Every cycle answers a next state: fetch and decode faults are taken, and every instruction has an effect (R149). -/
theorem exists_cycle_next (s : State) : ∃ t, cycle s = .next t := by
  cases hf : fetch s with
  | error e => exact ⟨_, cycle_fetchFault hf⟩
  | ok I =>
    cases hd : decodeWord I with
    | error b => exact ⟨_, cycle_illegal hf hd⟩
    | ok i =>
      obtain ⟨t, ht, -⟩ := exec_effect i s
      exact ⟨_, cycle_exec hf hd ht⟩

/-- An unended run steps to a next state: the boundary halt, a cycle, or the halted state itself (R78, R79). -/
theorem exists_step_next {s : State} (h : s.run = .running ∨ s.run = .halted) : ∃ t, step s = .next t := by
  rcases h with hrun | hhalt
  · by_cases hr : s.reg .rpc = s.reg .rsp
    · exact ⟨_, step_boundary hrun hr⟩
    · rw [step_running hrun hr]
      exact exists_cycle_next s
  · exact ⟨s, step_halted hhalt⟩

/-- A step answers a next state, or the run was aborted (R149). -/
theorem step_answers (s : State) : (∃ t, step s = .next t) ∨ ∃ f, s.AbortedWith f :=
  s.unended_or_aborted.imp_left exists_step_next

/-- A step answers a fault exactly from an aborted run, with its cause (R80, R149). -/
theorem step_eq_fault_iff {s : State} {f : Fault} : step s = .fault f ↔ s.AbortedWith f := by
  refine ⟨fun hstep => ?_, State.AbortedWith.step_eq⟩
  rcases step_answers s with ⟨t, ht⟩ | ⟨g, hg⟩
  · cases hstep.symm.trans ht
  · cases hstep.symm.trans hg.step_eq
    exact hg

/-- No step is refused (R149). -/
theorem step_ne_refused (s : State) (r : Refusal) : step s ≠ .refused r := by
  intro hstep
  rcases step_answers s with ⟨t, ht⟩ | ⟨g, hg⟩
  · cases hstep.symm.trans ht
  · cases hstep.symm.trans hg.step_eq

/-- Settles O36: an unended run steps to a next state, and a step's only other answer is the abort of its run. -/
theorem everyUnendedStateHasANextState : Obligations.EveryUnendedStateHasANextState :=
  fun s => ⟨exists_step_next, fun _ => step_eq_fault_iff, step_ne_refused s⟩

/-! ### The address a fault reports -/

/-- Settles O37: a step of a running machine faults at the cycle's address, or it ends halted or running. -/
theorem faultReportsTheCyclesAddress : Obligations.FaultReportsTheCyclesAddress := by
  intro s t e a hs h hf
  rcases step_run_cases hs h with ⟨e', hrun⟩ | ⟨-, hhalt | hgo⟩
  · cases hrun.symm.trans hf
    rfl
  · cases hhalt.symm.trans hf
  · cases hgo.symm.trans hf

end Sys2Proof.Machine

/-! PROOFS. The statements of spec/70_reset_and_hazards.md: the bits of an image's token, what a reset with an image
leaves, and the two ways a load is refused (R155 to R163). -/

namespace Sys2Proof

/-! ### The bits of a token -/

/-- The number that a token spells in binary, leftmost character first: what `tokenValue` makes a byte of (R158). -/
def tokenNat (t : Token) : Nat := t.foldl (fun v c => v * 2 + (if c = '1' then 1 else 0)) 0

theorem tokenValue_eq_ofNat (t : Token) : tokenValue t = BitVec.ofNat 8 (tokenNat t) := rfl

theorem tokenNat_concat (t : Token) (c : Char) : tokenNat (t ++ [c]) = tokenNat t * 2 + (if c = '1' then 1 else 0) := by
  simp [tokenNat]

/-- The last character is bit 0. -/
theorem testBit_tokenNat_concat_zero (t : Token) (c : Char) :
    (tokenNat (t ++ [c])).testBit 0 = decide (some c = some '1') := by
  rw [tokenNat_concat, Nat.testBit_zero]
  split <;> simp [*]

/-- Every other character is one bit higher than it is without the last. -/
theorem testBit_tokenNat_concat_succ (t : Token) (c : Char) (i : Nat) :
    (tokenNat (t ++ [c])).testBit (i + 1) = (tokenNat t).testBit i := by
  rw [tokenNat_concat, Nat.testBit_add_one]
  congr 1
  split <;> omega

/-- Character `j` of a token of any length is the bit as many places up as characters follow it. -/
theorem testBit_tokenNat (t : Token) (j : Nat) (hj : j < t.length) :
    (tokenNat t).testBit (t.length - 1 - j) = decide (t[j]? = some '1') := by
  induction t using List.reverseRecOn with
  | nil => simp at hj
  | append_singleton t c ih =>
    rw [List.length_append, List.length_singleton] at hj ⊢
    by_cases hlast : j = t.length
    · rw [hlast, show t.length + 1 - 1 - t.length = 0 by omega, testBit_tokenNat_concat_zero,
        List.getElem?_concat_length]
    · rw [show t.length + 1 - 1 - j = t.length - 1 - j + 1 by omega, testBit_tokenNat_concat_succ,
        List.getElem?_append_left (by omega), ih (by omega)]

theorem length_of_wellFormedByte {t : Token} (h : wellFormedByte t = true) : t.length = 8 := by
  obtain ⟨hlen, -⟩ : t.length = 8 ∧ t.all isBit = true := by simpa [wellFormedByte] using h
  exact hlen

/-- Settles O3: of eight characters, `7 - j` follow character `j`. -/
theorem tokenLeftmostCharacterIsBitSeven : Obligations.TokenLeftmostCharacterIsBitSeven := by
  intro t ht j hj
  have hlen : t.length = 8 := length_of_wellFormedByte ht
  have hbit := testBit_tokenNat t j (by omega)
  rw [hlen] at hbit
  rw [tokenValue_eq_ofNat, BitVec.getLsbD_ofNat, hbit, decide_eq_true (by omega : 7 - j < 8), Bool.true_and]

end Sys2Proof

namespace Sys2Proof.Machine

/-! ### The state before the image is placed -/

theorem blankState_rpc (cfg : Config) (en : Bool) : (blankState cfg en).reg .rpc = 0 := rfl

theorem blankState_reg {r : RegName} (cfg : Config) (en : Bool) (hr : writable r) :
    (blankState cfg en).reg r = cfg.gprReset := by
  cases r with
  | rpc => exact absurd rfl hr.1
  | rsp => exact absurd rfl hr.2
  | _ => rfl

/-! ### What a load leaves -/

section Load

variable {cfg : Config} {en : Bool} {image : List Token}

/-- A load that placed the whole image goes on to set `RSP` (R159). -/
theorem State.load_of_ok {n : Nat} (h : (loadTokens [] 0 image).2 = .ok n) :
    State.load cfg en image =
      ((blankState cfg en).setMem (loadTokens [] 0 image).1).setReg .rsp (decToHalfWord n) := by
  simp only [State.load, h]

/-- A refused load ends the run with its cause (R160, R161). -/
theorem State.load_of_error {e : Cause} (h : (loadTokens [] 0 image).2 = .error e) :
    State.load cfg en image = ((blankState cfg en).setMem (loadTokens [] 0 image).1).setRun (.loadFailed e) := by
  simp only [State.load, h]

theorem State.load_run_of_error {e : Cause} (h : (loadTokens [] 0 image).2 = .error e) :
    (State.load cfg en image).run = .loadFailed e := by
  rw [State.load_of_error h, State.setRun_run]

/-- Memory is what the loop left, however the load ended. -/
theorem State.load_mem : (State.load cfg en image).mem = (loadTokens [] 0 image).1 := by
  cases h : (loadTokens [] 0 image).2 with
  | ok n => rw [State.load_of_ok h, State.setReg_mem, State.setMem_mem]
  | error e => rw [State.load_of_error h, State.setRun_mem, State.setMem_mem]

/-- No load emits a command (R163). -/
theorem State.load_trace : (State.load cfg en image).trace = [] := by
  cases h : (loadTokens [] 0 image).2 with
  | ok n => rw [State.load_of_ok h]; rfl
  | error e => rw [State.load_of_error h]; rfl

theorem State.runHonest_of_loadFailed {s : State} {e : Cause} (h : s.run = .loadFailed e) (he : e.fromLoad) :
    s.runHonest := by
  simp [State.runHonest, h, he]

/-- A load leaves the run running, or failed with a cause that a load can have (R155, R160, R161). -/
theorem State.runHonest_load : (State.load cfg en image).runHonest := by
  rcases loadTokens_cases image [] 0 (Nat.zero_le _) with hok | ⟨t, ht, hbad⟩ | hlong
  · rw [State.load_of_ok hok]
    exact State.runHonest_of_running rfl
  · exact State.runHonest_of_loadFailed (State.load_run_of_error hbad) ht
  · exact State.runHonest_of_loadFailed (State.load_run_of_error hlong) rfl

end Load

/-- Settles O50: the loop keeps memory canonical, and each of its three answers gives an honest run state. -/
theorem everyLoadHasTheInvariant : Obligations.EveryLoadHasTheInvariant := by
  intro cfg en image
  refine ⟨?_, State.runHonest_load⟩
  rw [State.load_mem]
  exact wf_loadTokens Memory.wf_nil image 0

/-- Settles O49: the reset state is the load of the empty image. -/
theorem resetHasTheInvariant : Obligations.ResetHasTheInvariant := by
  unfold Obligations.ResetHasTheInvariant
  rw [reset_eq_load]
  exact everyLoadHasTheInvariant _ _ _

/-- Settles O52: the loop fills the cells and counts the tokens; the rest is the blank state's. -/
theorem loadFillsMemoryAndSetsRsp : Obligations.LoadFillsMemoryAndSetsRsp := by
  intro cfg en image hw hlen
  obtain ⟨hcount, hplaced, hrest⟩ := loadTokens_ok image [] 0 hw (by rwa [Nat.zero_add])
  rw [Nat.zero_add] at hcount hrest
  simp only [State.load_of_ok hcount, State.setReg_byte, State.setMem_byte, State.setReg_reg, State.setMem_reg]
  refine ⟨fun k t hk => ?_, fun k hk => ?_, ?_, ?_, fun r hr => ?_, rfl, rfl, rfl, rfl⟩
  · rw [← hplaced k t hk, Nat.zero_add]
  · rw [hrest k (.inr hk), Memory.byteAt_nil, Memory.unlisted]
  · rw [if_neg (by decide), blankState_rpc]
  · rw [if_pos trivial, toNat_decToHalfWord]
  · rw [if_neg hr.2, blankState_reg cfg en hr]

/-! ### The two refusals -/

theorem loadTokens_malformed {t : Token} (m : Memory) (n : Nat) (rest : List Token) (ht : wellFormedByte t = false) :
    (loadTokens m n (t :: rest)).2 = .error (.malformedEncoding t) := by
  simp [loadTokens, ht]

/-- The first token past the last cell is refused, if it is well-formed: R155 looks at its form first. -/
theorem loadTokens_full {t : Token} (m : Memory) (rest : List Token) (ht : wellFormedByte t = true) :
    (loadTokens m memSize (t :: rest)).2 = .error (.outOfBoundsAddress memSize) := by
  simp [loadTokens, ht]

/-- Settles O53: the loop passes the tokens before the malformed one and stops at it. -/
theorem malformedTokenAbortsTheLoad : Obligations.MalformedTokenAbortsTheLoad := by
  intro cfg en before t rest hw hlen ht
  obtain ⟨m, hpass⟩ := loadTokens_append before (t :: rest) [] 0 hw (by rwa [Nat.zero_add])
  have hrun : (State.load cfg en (before ++ t :: rest)).run = .loadFailed (.malformedEncoding t) :=
    State.load_run_of_error (by rw [hpass, loadTokens_malformed _ _ _ ht])
  exact ⟨hrun, State.load_trace, step_loadFailed hrun⟩

/-- Settles O54: the loop passes the first 65536 tokens and stops at the next, with all cells taken. -/
theorem tooLongImageIsRefused : Obligations.TooLongImageIsRefused := by
  intro cfg en image hw hlen
  have hsplit : image = image.take 65536 ++ image[65536] :: image.drop 65537 := by
    rw [← List.drop_eq_getElem_cons hlen, List.take_append_drop]
  have htake : (image.take 65536).length = memSize := List.length_take_of_le (by omega)
  rw [List.take_succ_eq_append_getElem hlen, List.forall_mem_append, List.forall_mem_singleton] at hw
  obtain ⟨hbefore, hnext⟩ := hw
  obtain ⟨m, hpass⟩ := loadTokens_append (image.take 65536) (image[65536] :: image.drop 65537) [] 0 hbefore
    (by rw [Nat.zero_add, htake])
  rw [Nat.zero_add, htake, ← hsplit] at hpass
  have hrun : (State.load cfg en image).run = .loadFailed (.outOfBoundsAddress 65536) :=
    State.load_run_of_error (by rw [hpass, loadTokens_full _ _ hnext, memSize])
  exact ⟨hrun, step_loadFailed hrun⟩

end Sys2Proof.Machine
